-- ==== Sys2Proof/Word.lean ====
section
/-! DEFINITION. The two word types of the engine: the byte of the buffer and the 32-bit register word (00_scope.md R9, R11). -/

namespace Sys2Proof

/-- A byte, values 0..255 (R11). -/
abbrev Byte := BitVec 8

/-- A 32-bit register, operand or command word (R9, R120). -/
abbrev Word := BitVec 32

end Sys2Proof
end

