-- ==== Sys2Proof/Machine/Block.lean ====
section
/-! DEFINITION. The 16-byte block as four columns of four bytes, the eleven-key schedule, and how byte
strings, blocks and little-endian words correspond (00_scope.md R13, 20_memory.md R81, R82). -/

namespace Sys2Proof.Machine

/-- A column of the cipher state, and the word of the key schedule: the byte string `[a0, a1, a2, a3]`
(41_key_schedule.md R180). -/
structure Quad where
  a0 : Byte
  a1 : Byte
  a2 : Byte
  a3 : Byte
deriving DecidableEq, Repr

/-- A block: `s[r + 4*c]` is byte `r` of column `c` (00_scope.md R13). -/
structure Block where
  c0 : Quad
  c1 : Quad
  c2 : Quad
  c3 : Quad
deriving DecidableEq, Repr

/-- The round-key file `RK[0..10]` (10_state.md R45). -/
abbrev RoundKeys := Vector Block 11

/-- Four zero bytes. -/
def Quad.zero : Quad := ⟨0, 0, 0, 0⟩

/-- Sixteen zero bytes. -/
def Block.zero : Block := ⟨Quad.zero, Quad.zero, Quad.zero, Quad.zero⟩

/-- Bytewise xor of equal-length strings (00_scope.md R12). -/
def Quad.xor (p q : Quad) : Quad := ⟨p.a0 ^^^ q.a0, p.a1 ^^^ q.a1, p.a2 ^^^ q.a2, p.a3 ^^^ q.a3⟩

/-- A function applied to each byte of a column. -/
def Quad.map (f : Byte → Byte) (q : Quad) : Quad := ⟨f q.a0, f q.a1, f q.a2, f q.a3⟩

/-- A function applied to each column of a block. -/
def Block.map (f : Quad → Quad) (b : Block) : Block := ⟨f b.c0, f b.c1, f b.c2, f b.c3⟩

/-- The four bytes, first byte first. -/
def Quad.toBytes (q : Quad) : List Byte := [q.a0, q.a1, q.a2, q.a3]

/-- The first four bytes of a byte string. Every caller gives at least four. -/
def Quad.ofBytes (l : List Byte) : Quad := ⟨l.getD 0 0, l.getD 1 0, l.getD 2 0, l.getD 3 0⟩

/-- The sixteen bytes of a block in buffer order (20_memory.md R82). -/
def Block.toBytes (b : Block) : List Byte := b.c0.toBytes ++ b.c1.toBytes ++ b.c2.toBytes ++ b.c3.toBytes

/-- The block held by the first sixteen bytes of a byte string (R82). Every caller gives at least sixteen. -/
def Block.ofBytes (l : List Byte) : Block :=
  ⟨Quad.ofBytes l, Quad.ofBytes (l.drop 4), Quad.ofBytes (l.drop 8), Quad.ofBytes (l.drop 12)⟩

/-- Column `m` of a block, `m = 0..3`. -/
def Block.column (b : Block) : Nat → Quad
  | 0 => b.c0
  | 1 => b.c1
  | 2 => b.c2
  | _ => b.c3

/-- State byte `s[k]`, `k = 0..15`. -/
def Block.byte (b : Block) (k : Nat) : Byte := (b.column (k / 4)).toBytes.getD (k % 4) 0

/-- The little-endian word of four bytes (20_memory.md R81). -/
def leWord (b0 b1 b2 b3 : Byte) : Word := b3 ++ b2 ++ b1 ++ b0

/-- The little-endian word of a byte string; a shorter string is widened with zeros (R12 `zext`). -/
def leWordOf (l : List Byte) : Word := leWord (l.getD 0 0) (l.getD 1 0) (l.getD 2 0) (l.getD 3 0)

/-- `v[8k+7:8k]` for `k = 0..3`, the bytes a word write stores in increasing offset (44_host_interface.md R295). -/
def leBytes (v : Word) : List Byte :=
  [v.extractLsb' 0 8, v.extractLsb' 8 8, v.extractLsb' 16 8, v.extractLsb' 24 8]

/-- All eleven round keys zero, as reset and KSCLR leave them. -/
def zeroKeys : RoundKeys := Vector.replicate 11 Block.zero

/-- Round key `j` of the file, `j = 0..10`. -/
def roundKeyAt (rk : RoundKeys) (j : Nat) : Block := rk.toList.getD j Block.zero

end Sys2Proof.Machine
end

