-- ==== Sys2Proof/Machine/Field.lean ====
section
/-! DEFINITION. Arithmetic in GF(2^8) modulo 0x11B (42_block_transform.md R210 to R212) and the affine map of the
S-box's definition (R213). -/

namespace Sys2Proof.Machine

/-- Multiplication by `x` (R211): the shifted byte, reduced by 0x11B when bit 7 was set. -/
def xtime (a : Byte) : Byte := (a <<< 1) ^^^ (if a.getLsbD 7 then 0x1B#8 else 0x00#8)

/-- The loop of `gmul` (R212): `n` bits of `b` are left, `a` is the doubled factor, `p` the sum so far. -/
def gmulLoop : Nat → Byte → Byte → Byte → Byte
  | 0, _, _, p => p
  | n + 1, a, b, p => gmulLoop n (xtime a) (b >>> 1) (if b.getLsbD 0 then p ^^^ a else p)

/-- The field product (R212). -/
def gmul (a b : Byte) : Byte := gmulLoop 8 a b 0x00#8

/-- The affine map `A` of R213: `y[i] = z[i] xor z[i+4] xor z[i+5] xor z[i+6] xor z[i+7] xor c[i]`, indices mod 8,
with `c = 0x63`. -/
def sBoxAffine (z : Byte) : Byte :=
  z ^^^ z.rotateRight 4 ^^^ z.rotateRight 5 ^^^ z.rotateRight 6 ^^^ z.rotateRight 7 ^^^ 0x63#8

end Sys2Proof.Machine
end

