-- ==== Sys2Proof/Machine/Cipher.lean ====
section
/-! DEFINITION. The round primitives (42_block_transform.md R216 to R222), Cipher (R223) and InvCipher (R224): pure
functions of the block and the round keys (R226). -/

namespace Sys2Proof.Machine

/-- `SubBytes` (R216). -/
def subBytes (s : Block) : Block := s.map (Quad.map sBox)

/-- `InvSubBytes` (R217). -/
def invSubBytes (s : Block) : Block := s.map (Quad.map invSBox)

/-- `ShiftRows` (R218): `t[r + 4c] = s[r + 4*((c + r) mod 4)]`. -/
def shiftRows (s : Block) : Block :=
  ⟨⟨s.c0.a0, s.c1.a1, s.c2.a2, s.c3.a3⟩,
   ⟨s.c1.a0, s.c2.a1, s.c3.a2, s.c0.a3⟩,
   ⟨s.c2.a0, s.c3.a1, s.c0.a2, s.c1.a3⟩,
   ⟨s.c3.a0, s.c0.a1, s.c1.a2, s.c2.a3⟩⟩

/-- `InvShiftRows` (R219): `t[r + 4*((c + r) mod 4)] = s[r + 4c]`. -/
def invShiftRows (s : Block) : Block :=
  ⟨⟨s.c0.a0, s.c3.a1, s.c2.a2, s.c1.a3⟩,
   ⟨s.c1.a0, s.c0.a1, s.c3.a2, s.c2.a3⟩,
   ⟨s.c2.a0, s.c1.a1, s.c0.a2, s.c3.a3⟩,
   ⟨s.c3.a0, s.c2.a1, s.c1.a2, s.c0.a3⟩⟩

/-- One column of `MixColumns` (R220). -/
def mixColumn (q : Quad) : Quad :=
  ⟨gmul 0x02 q.a0 ^^^ gmul 0x03 q.a1 ^^^ q.a2 ^^^ q.a3,
   q.a0 ^^^ gmul 0x02 q.a1 ^^^ gmul 0x03 q.a2 ^^^ q.a3,
   q.a0 ^^^ q.a1 ^^^ gmul 0x02 q.a2 ^^^ gmul 0x03 q.a3,
   gmul 0x03 q.a0 ^^^ q.a1 ^^^ q.a2 ^^^ gmul 0x02 q.a3⟩

/-- `MixColumns` (R220). -/
def mixColumns (s : Block) : Block := s.map mixColumn

/-- One column of `InvMixColumns` (R221). -/
def invMixColumn (q : Quad) : Quad :=
  ⟨gmul 0x0E q.a0 ^^^ gmul 0x0B q.a1 ^^^ gmul 0x0D q.a2 ^^^ gmul 0x09 q.a3,
   gmul 0x09 q.a0 ^^^ gmul 0x0E q.a1 ^^^ gmul 0x0B q.a2 ^^^ gmul 0x0D q.a3,
   gmul 0x0D q.a0 ^^^ gmul 0x09 q.a1 ^^^ gmul 0x0E q.a2 ^^^ gmul 0x0B q.a3,
   gmul 0x0B q.a0 ^^^ gmul 0x0D q.a1 ^^^ gmul 0x09 q.a2 ^^^ gmul 0x0E q.a3⟩

/-- `InvMixColumns` (R221). -/
def invMixColumns (s : Block) : Block := s.map invMixColumn

/-- `AddRoundKey` (R222). -/
def addRoundKey (s k : Block) : Block := ⟨s.c0.xor k.c0, s.c1.xor k.c1, s.c2.xor k.c2, s.c3.xor k.c3⟩

/-- One of the nine full rounds (R223). -/
def fullRound (s k : Block) : Block := addRoundKey (mixColumns (shiftRows (subBytes s))) k

/-- The final round, "omitting column mixing" (R223). -/
def finalRound (s k : Block) : Block := addRoundKey (shiftRows (subBytes s)) k

/-- The loop body of InvCipher (R224). -/
def invFullRound (s k : Block) : Block := invMixColumns (addRoundKey (invSubBytes (invShiftRows s)) k)

/-- The end of InvCipher (R224). -/
def invFinalRound (s k : Block) : Block := addRoundKey (invSubBytes (invShiftRows s)) k

/-- `Cipher(b, RK)` (R223). -/
def cipher (b : Block) (rk : RoundKeys) : Block :=
  finalRound
    ([rk[1], rk[2], rk[3], rk[4], rk[5], rk[6], rk[7], rk[8], rk[9]].foldl fullRound (addRoundKey b rk[0]))
    rk[10]

/-- `InvCipher(b, RK)` (R224): the round keys in reverse order. -/
def invCipher (b : Block) (rk : RoundKeys) : Block :=
  invFinalRound
    ([rk[9], rk[8], rk[7], rk[6], rk[5], rk[4], rk[3], rk[2], rk[1]].foldl invFullRound (addRoundKey b rk[10]))
    rk[0]

/-- A block function applied to each of the `n` blocks of a byte string, in order, each block independently
(40_segmenter.md R150, 43_block_commands.md R265, R268). -/
def transformBlocks (f : Block → Block) : Nat → List Byte → List Byte
  | 0, _ => []
  | n + 1, bs => (f (Block.ofBytes (bs.take 16))).toBytes ++ transformBlocks f n (bs.drop 16)

end Sys2Proof.Machine
end

