-- ==== Sys2Proof/Syntax.lean ====
section
/-! DEFINITION. The command set VAES-CMD version 1: one constructor per row of spec/opcode_table.json (30_encoding.md R123). A command carries no operand fields (R120, R122): its operands are the latched registers. -/

namespace Sys2Proof

/-- The seven commands of 30_encoding.md R123. -/
inductive Instr where
  /-- No operation (43_block_commands.md R260). -/
  | nop
  /-- Expand a key into eleven round keys (41_key_schedule.md R186). -/
  | expand
  /-- Encrypt a region block by block (43_block_commands.md R262). -/
  | encrypt
  /-- Decrypt a region block by block (43_block_commands.md R263). -/
  | decrypt
  /-- Append padding bytes (40_segmenter.md R155). -/
  | pad
  /-- Validate padding and report the unpadded length (40_segmenter.md R156). -/
  | unpad
  /-- Clear the key schedule (41_key_schedule.md R187). -/
  | ksclr
deriving DecidableEq, Repr

end Sys2Proof
end

