-- ==== Sys2Proof/WellFormed.lean ====
section
/-! DEFINITION. Which command words and which commands are well formed (30_encoding.md R120, R123). -/

namespace Sys2Proof

/-- The one command format, CMDW (R120): bits 7:0 are OPC, bits 31:8 are RSV. -/
structure CmdFormat where
  opc : BitVec 8
  rsv : BitVec 24
deriving DecidableEq, Repr

/-- "reserved; must be zero" (R120). -/
def CmdFormat.reservedZero (f : CmdFormat) : Bool := f.rsv == 0

/-- The operation codes 0x00..0x06 are assigned, 0x07..0xFF reserved (R123). -/
def CmdFormat.assigned (f : CmdFormat) : Bool := f.opc.toNat < 7

/-- A command word is well formed when both checks hold; every other word is illegal (R125). -/
def CmdFormat.wf (f : CmdFormat) : Bool := f.reservedZero && f.assigned

/-- A command as syntax has no operand field that could be out of range (R120, R122), so every one of
the seven is well formed. -/
def Instr.wf : Instr → Bool
  | .nop => true
  | .expand => true
  | .encrypt => true
  | .decrypt => true
  | .pad => true
  | .unpad => true
  | .ksclr => true

end Sys2Proof
end

