-- ==== Sys2Proof/Decode.lean ====
section
/-! DEFINITION. The decoder, total over all 2^32 words (30_encoding.md R124), and the encoder (R123). -/

namespace Sys2Proof

/-- Why a word is ILLEGAL (R125). Both reasons complete with the same code. -/
inductive DecodeError where
  /-- `w[31:8] != 0`. -/
  | reservedField
  /-- `w[7:0]` is in 0x07..0xFF. -/
  | reservedOpcode
deriving DecidableEq, Repr

/-- The fields of a command word (R120). -/
def fieldsOf (w : Word) : CmdFormat := { opc := w.setWidth 8, rsv := w.extractLsb' 8 24 }

/-- `CUR.opc <- w[7:0]` (10_state.md R50). -/
def opcOf (w : Word) : Byte := w.setWidth 8

/-- The operation codes (R123). -/
def ofOpcode (opc : Byte) : Option Instr :=
  match opc.toNat with
  | 0 => some .nop
  | 1 => some .expand
  | 2 => some .encrypt
  | 3 => some .decrypt
  | 4 => some .pad
  | 5 => some .unpad
  | 6 => some .ksclr
  | _ => none

/-- `decode` of R124. -/
def decode (w : Word) : Except DecodeError Instr :=
  if (fieldsOf w).reservedZero then
    match ofOpcode (fieldsOf w).opc with
    | some i => .ok i
    | none => .error .reservedOpcode
  else .error .reservedField

/-- The word of a command (R123). -/
def encode : Instr → Word
  | .nop => 0x00000000#32
  | .expand => 0x00000001#32
  | .encrypt => 0x00000002#32
  | .decrypt => 0x00000003#32
  | .pad => 0x00000004#32
  | .unpad => 0x00000005#32
  | .ksclr => 0x00000006#32

/-- The command word whose bits are `w`, for the host's opcode-table check: a command is exactly one
32-bit word (R121), so more than 32 set bits are no command word (notes/assumptions/20.md). -/
def tableWord (nbits w : Nat) : Option Word :=
  let v := w % 2 ^ nbits
  if v < 2 ^ 32 then some (BitVec.ofNat 32 v) else none

/-- What the decoder reads from the command word whose bits are `w`. -/
def decodeTableWord (nbits w : Nat) : Option Instr :=
  match tableWord nbits w with
  | some v => (decode v).toOption
  | none => none

end Sys2Proof
end

