-- ==== Sys2Proof/Config.lean ====
section
/-! DEFINITION. What an implementation fixes (00_scope.md R9) and the free values of the model: constants
without a body, so that no proof can use a value of theirs. -/

namespace Sys2Proof

/-- `ID_VALUE`, the constant read from the ID register (R9, R34; notes/assumptions/2.md). -/
opaque Config.idValue : Word

/-- How many 16-byte blocks `BUF_SIZE` has beyond the two that R9 demands. -/
opaque Config.extraBlocks : Fin 134217727

/-- `BUF_SIZE` (R9): "a multiple of 16 with `32 <= BUF_SIZE <= 2^31`". Every legal size is the value of
this expression for exactly one `extraBlocks` (notes/assumptions/1.md). -/
def Config.bufSize : Nat := 16 * (2 + Config.extraBlocks.val)

/-- How many lanes the engine has beyond the one that R9 demands. -/
opaque Config.extraLanes : Nat

/-- `NLANES` (R9): `NLANES >= 1`. No result depends on it (43_block_commands.md R268; notes/assumptions/9.md). -/
def Config.nLanes : Nat := 1 + Config.extraLanes

/-- `REG_BASE` (R9): where the platform places the register port in the host's address space. No rule of the engine
reads it (notes/assumptions/17.md). -/
opaque Config.regBase : Nat

/-- `BUF_BASE` (R9): where the platform places the buffer port. No rule of the engine reads it
(notes/assumptions/17.md). -/
opaque Config.bufBase : Nat

/-- `IRQ_ROUTE` (60_exceptions.md R341): how the platform routes IRQ. No rule reads it (notes/assumptions/17.md). -/
opaque Config.irqRoute : Nat

/-- The free values (10_state.md R48, 60_exceptions.md R349): the `n`-th draw of a run. Nothing constrains
it (notes/assumptions/3.md). -/
opaque Config.draw : Nat → Byte

end Sys2Proof
end

