-- ==== Sys2Proof/Machine/Transaction.lean ====
section
/-! DEFINITION. What the outside world can do to the engine, as plain data: transactions (30_encoding.md R128),
the statements of a host program (R126, 44_host_interface.md R310, R311), and whose move a step is. -/

namespace Sys2Proof.Machine

/-- The two address spaces (20_memory.md R80). -/
inductive Space where
  | reg
  | buf
deriving DecidableEq, Repr

/-- The direction of a transaction. -/
inductive Dir where
  | write
  | read
deriving DecidableEq, Repr

/-- A transaction `(space, dir, width, offset, data)` (30_encoding.md R128). `data` is used by writes only. -/
structure Txn where
  space : Space
  dir : Dir
  width : Nat
  offset : Word
  data : Word
deriving DecidableEq, Repr

/-- A statement of an expanded host program (44_host_interface.md R310, R311). -/
inductive Stmt where
  /-- `wreg`, `rreg`, one byte of `wbuf8`, `wbuf32`, `rbuf8`, `rbuf32`, `cmd`. -/
  | txn (t : Txn)
  /-- `brs R, m, L` with the label resolved to its statement index. -/
  | brs (offset mask : Word) (target : Nat)
  /-- The host program ends. -/
  | halt
deriving DecidableEq, Repr

/-- The host model (R310): its program, its position `hpc`, and the values its reads returned, newest first. -/
structure HostState where
  program : List Stmt
  hpc : Nat
  reads : List Word
deriving DecidableEq, Repr

/-- Whose move a step is (44_host_interface.md R303, 70_reset_and_hazards.md R370; notes/assumptions/6.md). -/
inductive Turn where
  /-- The host performs its next statement. -/
  | host
  /-- The engine performs and completes the accepted command. -/
  | engine
  /-- The reset input is asserted. -/
  | hardReset
  /-- Power is applied. -/
  | powerOn
deriving DecidableEq, Repr

/-- The registers of the register port (10_state.md R33). -/
inductive Reg where
  | id
  | ctrl
  | status
  | err
  | cmd
  | src
  | dst
  | len
  | result
  | nr
  | bufSize
  /-- Word `k` of the round-key window, `k = 0..43` (R45). -/
  | rkw (k : Nat)
  /-- Reserved: reads 0, writes ignored (R46). -/
  | reserved
deriving DecidableEq, Repr

end Sys2Proof.Machine
end

