-- ==== Sys2Proof/Machine/State.lean ====
section
/-! DEFINITION. The state of the engine (10_state.md R30 to R54) and of the host that drives it, why a run can
stop, the error codes, and the state after power-on reset. -/

namespace Sys2Proof.Machine

/-- The buffer memory as the list of its written bytes, addresses strictly rising. An address that is not listed
is uninitialised (R48): it holds no value, so no written byte is ever left out of the list. -/
abbrev Memory := List Host.Cell

/-- The command latch `CUR` (10_state.md R50). -/
structure Latch where
  word : Word
  opc : Byte
  src : Word
  dst : Word
  len : Word
deriving DecidableEq, Repr

/-- The error codes (60_exceptions.md R331). -/
inductive ErrCode where
  | none
  | invalidKeyLength
  | invalidPadding
  | invalidState
  | illegalCommand
  | range
  | align
  | overlap
  /-- Reserved: no rule produces it (R332). -/
  | execFault
deriving DecidableEq, Repr

/-- Faults: there are none. "The engine never traps, never interrupts the host synchronously and never stops"
(60_exceptions.md R330), and the one fault of the host program is the sticky flag HAZARD of a next state
(R349, 70_reset_and_hazards.md R380; notes/assumptions/10.md and 19.md). -/
inductive Fault : Type
deriving DecidableEq, Repr

/-- Refusals: transactions that are "not a transaction of this engine: the model refuses it"
(44_host_interface.md R293, R296), raised by the host's move, never by a command. Each is safe: the run stops. -/
inductive Refusal where
  /-- An arm of `exec` without a meaning; safe. No arm of this model raises it. -/
  | notModelled (mnemonic : String)
  /-- A register transaction whose width is not 32 bits (R293); raised by the host's move; safe. -/
  | registerWidth
  /-- A register transaction whose offset is not a multiple of 4 (R293); raised by the host's move; safe. -/
  | registerAlignment
  /-- A register transaction past offset 0xFFF (10_state.md R33; notes/assumptions/13.md); raised by the host's move; safe. -/
  | registerOffset
  /-- A buffer transaction of a width other than 8 or 32 bits (R296); raised by the host's move; safe. -/
  | bufferWidth
  /-- A buffer word transaction whose offset is not a multiple of 4 (R296); raised by the host's move; safe. -/
  | bufferAlignment
  /-- A buffer transaction past `BUF_SIZE` (R296); raised by the host's move; safe. -/
  | bufferRange
deriving DecidableEq, Repr

/-- The state (10_state.md R30). -/
structure State where
  /-- ID, constant (R34). -/
  idValue : Word
  /-- BUFSIZE, constant (R44). -/
  bufSize : Nat
  /-- CTRL.IE (R37). -/
  ie : Bool
  /-- STATUS.BUSY (R35). -/
  busy : Bool
  /-- STATUS.DONE (R35). -/
  done : Bool
  /-- STATUS.KSV (R35). -/
  ksv : Bool
  /-- STATUS.OVR (R35). -/
  ovr : Bool
  /-- ERR.CODE (R36). -/
  err : Byte
  /-- CMD (R38). -/
  cmd : Word
  /-- SRC (R39). -/
  src : Word
  /-- DST (R40). -/
  dst : Word
  /-- LEN (R41). -/
  len : Word
  /-- RESULT (R42). -/
  result : Word
  /-- RK[0..10] (R45). -/
  rk : RoundKeys
  /-- BUF (R47, R48). -/
  mem : Memory
  /-- CUR (R50). -/
  cur : Latch
  /-- HAZARD (R53). -/
  hazard : Bool
  /-- The model's own: how many free values have been drawn (notes/assumptions/3.md). -/
  draws : Nat
  /-- The host model (44_host_interface.md R310; notes/assumptions/7.md). -/
  host : HostState
  /-- The model's own: whose moves the next steps are (notes/assumptions/6.md). -/
  turns : List Turn
deriving DecidableEq, Repr

/-- The state after power-on reset of an engine with the given parameters (R54, 70_reset_and_hazards.md R371, R372). -/
def State.resetWith (idValue : Word) (bufSize : Nat) : State where
  idValue := idValue
  bufSize := bufSize
  ie := false
  busy := false
  done := false
  ksv := false
  ovr := false
  err := 0
  cmd := 0
  src := 0
  dst := 0
  len := 0
  result := 0
  rk := zeroKeys
  mem := []
  cur := { word := 0, opc := 0, src := 0, dst := 0, len := 0 }
  hazard := false
  draws := 0
  host := { program := [], hpc := 0, reads := [] }
  turns := []

/-- The machine right after power-on reset, its parameters those of the implementation (00_scope.md R9). -/
def State.reset : State := State.resetWith Config.idValue Config.bufSize

end Sys2Proof.Machine
end

