-- ==== Sys2Proof/Machine/Ops.lean ====
section
/-! DEFINITION. The named operations over buffer memory and registers: reading with draws, writing, completion
and its error form (44_host_interface.md R304, 60_exceptions.md R333), acceptance (R300) and the resets
(70_reset_and_hazards.md R371 to R373). Completion with an error code is this engine's whole exception entry:
"There is no trap entry" (R336) and "There is no trap return" (R337). -/

namespace Sys2Proof.Machine

/-- The constant of the NR register and the result of EXPAND (10_state.md R43). -/
def roundCount : Word := 10

/-- The value of each error code (60_exceptions.md R331). -/
def ErrCode.code : ErrCode → Byte
  | .none => 0x00
  | .invalidKeyLength => 0x01
  | .invalidPadding => 0x02
  | .invalidState => 0x03
  | .illegalCommand => 0x04
  | .range => 0x05
  | .align => 0x06
  | .overlap => 0x07
  | .execFault => 0x08

/-- The byte last written at `a`; `none` where no byte has been written (10_state.md R48). -/
def Memory.read : Memory → Nat → Option Byte
  | [], _ => Option.none
  | c :: m, a => if c.1 = a then some c.2 else Memory.read m a

/-- `BUF[a] <- b` (00_scope.md R12), keeping the addresses strictly rising. -/
def Memory.write : Memory → Nat → Byte → Memory
  | [], a, b => [(a, b)]
  | c :: m, a, b =>
    if a < c.1 then (a, b) :: c :: m
    else if a = c.1 then (a, b) :: m
    else c :: Memory.write m a b

/-- `MemWrite(a, n, v)` (R12) of the byte string `v`. -/
def Memory.writeBytes : Memory → Nat → List Byte → Memory
  | m, _, [] => m
  | m, a, b :: bs => Memory.writeBytes (m.write a b) (a + 1) bs

/-- `MemRead(a, n)` (R12): the bytes read, and how many free values have been drawn once they are. A byte never
written is a fresh draw at each read (10_state.md R48; notes/assumptions/4.md). -/
def Memory.readBytes (m : Memory) : Nat → Nat → Nat → List Byte × Nat
  | _, 0, d => ([], d)
  | a, n + 1, d =>
    match m.read a with
    | some b => (b :: (Memory.readBytes m (a + 1) n d).1, (Memory.readBytes m (a + 1) n d).2)
    | Option.none => (Config.draw d :: (Memory.readBytes m (a + 1) n (d + 1)).1, (Memory.readBytes m (a + 1) n (d + 1)).2)

/-- `n` free values: what reading `n` bytes gives where every byte is open. -/
def drawBytes (n d : Nat) : List Byte × Nat := Memory.readBytes [] 0 n d

/-- The canonical form of a memory: addresses strictly rising. Every listed byte differs from what an unlisted
address reads as, since an unlisted address holds no value. -/
def Memory.wf : Memory → Bool
  | [] => true
  | [_] => true
  | c :: e :: m => (c.1 < e.1 : Bool) && Memory.wf (e :: m)

/-- The `n` bytes from `a`, where all of them have been written. -/
def Memory.bytesAt (m : Memory) : Nat → Nat → Option (List Byte)
  | _, 0 => some []
  | a, n + 1 =>
    match m.read a, Memory.bytesAt m (a + 1) n with
    | some b, some bs => some (b :: bs)
    | _, _ => Option.none

/-- `complete(e)` (44_host_interface.md R304): ERR receives the code, BUSY falls, DONE rises. -/
def State.complete (s : State) (e : ErrCode) : State :=
  { s with err := e.code, busy := false, done := true }

/-- The end of a command: `complete with ERR_NONE` after the command's own writes, or `raise e`
(60_exceptions.md R333), which completes the unchanged state `s` with the code. -/
def State.settle (s : State) : Except ErrCode State → State
  | .ok t => t.complete .none
  | .error e => s.complete e

/-- `accept(w)` (44_host_interface.md R300). -/
def State.accept (s : State) (w : Word) : State :=
  { s with
    cmd := w
    cur := { word := w, opc := opcOf w, src := s.src, dst := s.dst, len := s.len }
    done := false
    busy := true }

/-- A host CMD write (10_state.md R38): accepted when idle (R300), dropped with OVR set when busy (R301). -/
def State.writeCmd (s : State) (w : Word) : State :=
  if s.busy then { s with ovr := true } else s.accept w

/-- The padding length `r = 16 - (L mod 16)` (40_segmenter.md R151). -/
def padLength (n : Nat) : Nat := 16 - n % 16

/-- The bytes an abandoned command could have written (70_reset_and_hazards.md R373), as first offset and count,
by `CUR.opc`; none when no command is executing (notes/assumptions/11.md). -/
def State.abandonedRegion (s : State) : Nat × Nat :=
  if s.busy then
    match s.cur.opc.toNat with
    | 2 => (s.cur.dst.toNat, min (s.cur.dst.toNat + s.cur.len.toNat) s.bufSize - s.cur.dst.toNat)
    | 3 => (s.cur.dst.toNat, min (s.cur.dst.toNat + s.cur.len.toNat) s.bufSize - s.cur.dst.toNat)
    | 4 => (s.cur.src.toNat + s.cur.len.toNat,
        min (s.cur.src.toNat + s.cur.len.toNat + padLength s.cur.len.toNat) s.bufSize
          - (s.cur.src.toNat + s.cur.len.toNat))
    | _ => (0, 0)
  else (0, 0)

/-- A reset's effect on BUF (R371, R373): the abandoned command's bytes take drawn values, all others stay.
After a hazard BUF stays wholly open (notes/assumptions/10.md). -/
def State.abandon (s : State) : State :=
  { s with
    mem := if s.hazard then s.mem
      else s.mem.writeBytes s.abandonedRegion.1 (drawBytes s.abandonedRegion.2 s.draws).1
    draws := (drawBytes s.abandonedRegion.2 s.draws).2 }

/-- Every register, the round-key file and the latch at its reset value (10_state.md R54); BUF and HAZARD stay. -/
def State.clearRegisters (s : State) : State :=
  { s with
    ie := false, busy := false, done := false, ksv := false, ovr := false
    err := 0, cmd := 0, src := 0, dst := 0, len := 0, result := 0
    rk := zeroKeys
    cur := { word := 0, opc := 0, src := 0, dst := 0, len := 0 } }

/-- Soft reset and hard reset (70_reset_and_hazards.md R371, R373). -/
def State.warmReset (s : State) : State := s.abandon.clearRegisters

/-- Power-on reset (R372): as R371, and every byte of BUF uninitialised. -/
def State.powerOnReset (s : State) : State := { s.warmReset with mem := [] }

end Sys2Proof.Machine
end

