-- ==== Sys2Proof/Machine/Operands.lean ====
section
/-! DEFINITION. The operands of a command, read from the latch as non-negative integers (30_encoding.md R122),
and the checks on regions (43_block_commands.md R261, 40_segmenter.md R155, R156, 41_key_schedule.md R186). -/

namespace Sys2Proof.Machine

/-- `CUR.src` as an integer (R122). -/
def State.srcOffset (s : State) : Nat := s.cur.src.toNat

/-- `CUR.dst` as an integer (R122). -/
def State.dstOffset (s : State) : Nat := s.cur.dst.toNat

/-- `CUR.len` as an integer (R122). -/
def State.lenBytes (s : State) : Nat := s.cur.len.toNat

/-- The region of `n` bytes at `a` lies within BUF; integer arithmetic, no wrap (00_scope.md R12). -/
def State.fits (s : State) (a n : Nat) : Bool := a + n ≤ s.bufSize

/-- A multiple of the block size (R261). -/
def aligned16 (n : Nat) : Bool := n % 16 == 0

/-- Two regions of `n` bytes overlap without being the same region (R261). -/
def overlapping (a d n : Nat) : Bool := a != d && (a < d + n : Bool) && (d < a + n : Bool)

/-- `BlockChecks(a, d, L)` on the latched operands (43_block_commands.md R261), in its order. -/
def State.blockChecks (s : State) : Option ErrCode :=
  if !s.ksv then some .invalidState
  else if !(aligned16 s.srcOffset && aligned16 s.dstOffset && aligned16 s.lenBytes) then some .align
  else if !(s.fits s.srcOffset s.lenBytes && s.fits s.dstOffset s.lenBytes) then some .range
  else if overlapping s.srcOffset s.dstOffset s.lenBytes then some .overlap
  else Option.none

end Sys2Proof.Machine
end

