-- ==== Sys2Proof/Machine/BlockCommands.lean ====
section
/-! DEFINITION. The block-sequence commands NOP, ENCRYPT and DECRYPT (43_block_commands.md R260, R262, R263), each
one transition with the blocks in sequential order (R268, 20_memory.md R94; notes/assumptions/9.md). -/

namespace Sys2Proof.Machine

/-- NOP (R260). -/
def execNop (s : State) : Host.Outcome State Fault Refusal := .next (s.settle (.ok s))

/-- The checks and writes shared by ENCRYPT and DECRYPT (R262, R263): the source region as it was at acceptance
(00_scope.md R14), each block transformed, the results written at the destination, RESULT the byte count. -/
def State.transformBody (s : State) (f : Block → Block) : Except ErrCode State :=
  match s.blockChecks with
  | some e => .error e
  | Option.none =>
    .ok { s with
      mem := s.mem.writeBytes s.dstOffset
        (transformBlocks f (s.lenBytes / 16) (s.mem.readBytes s.srcOffset s.lenBytes s.draws).1)
      result := s.cur.len
      draws := (s.mem.readBytes s.srcOffset s.lenBytes s.draws).2 }

/-- ENCRYPT (R262). -/
def execEncrypt (s : State) : Host.Outcome State Fault Refusal :=
  .next (s.settle (s.transformBody fun b => cipher b s.rk))

/-- DECRYPT (R263). -/
def execDecrypt (s : State) : Host.Outcome State Fault Refusal :=
  .next (s.settle (s.transformBody fun b => invCipher b s.rk))

end Sys2Proof.Machine
end

