-- ==== Sys2Proof/Machine/KeySchedule.lean ====
section
/-! DEFINITION. The key expansion (41_key_schedule.md R180 to R184), a pure function of the key (R185). -/

namespace Sys2Proof.Machine

/-- `RotWord` (R181). -/
def rotWord (w : Quad) : Quad := ⟨w.a1, w.a2, w.a3, w.a0⟩

/-- `SubWord` (R182). -/
def subWord (w : Quad) : Quad := w.map sBox

/-- `rc_i` for `i >= 1` (R183): `rc_1 = 0x01`, `rc_i = xtime(rc_(i-1))`. Index 0 is not used by any rule. -/
def roundConstant : Nat → Byte
  | 0 => 0x00#8
  | 1 => 0x01#8
  | n + 2 => xtime (roundConstant (n + 1))

/-- `Rcon[i] = [rc_i, 0x00, 0x00, 0x00]` (R183). -/
def rcon (i : Nat) : Quad := ⟨roundConstant i, 0x00#8, 0x00#8, 0x00#8⟩

/-- The four words `w[4i..4i+3]` from the four before them (R184): round key `i` from round key `i - 1`. -/
def nextRoundKey (k : Block) (i : Nat) : Block :=
  let w0 := k.c0.xor ((subWord (rotWord k.c3)).xor (rcon i))
  let w1 := k.c1.xor w0
  let w2 := k.c2.xor w1
  let w3 := k.c3.xor w2
  ⟨w0, w1, w2, w3⟩

/-- Round key `j` of the key `k` (R184): round key 0 is the key. -/
def expandedKey (k : Block) : Nat → Block
  | 0 => k
  | j + 1 => nextRoundKey (expandedKey k j) (j + 1)

/-- `KeyExpansion(K)` (R184): `RKnew[0..10]`. -/
def keyExpansion (k : Block) : RoundKeys := Vector.ofFn fun j => expandedKey k j.val

/-- The word `w[i]` of a schedule, `i = 0..43`: column `i mod 4` of round key `i div 4` (R184). -/
def scheduleWord (rk : RoundKeys) (i : Nat) : Quad := (roundKeyAt rk (i / 4)).column (i % 4)

end Sys2Proof.Machine
end

