-- ==== Sys2Proof/Machine/KeyCommands.lean ====
section
/-! DEFINITION. The commands of the key-schedule expander: EXPAND and KSCLR (41_key_schedule.md R186, R187). -/

namespace Sys2Proof.Machine

/-- The checks and writes of EXPAND (R186). -/
def State.expandBody (s : State) : Except ErrCode State :=
  if s.lenBytes ≠ 16 then .error .invalidKeyLength
  else if !s.fits s.srcOffset 16 then .error .range
  else
    .ok { s with
      rk := keyExpansion (Block.ofBytes (s.mem.readBytes s.srcOffset 16 s.draws).1)
      ksv := true
      result := roundCount
      draws := (s.mem.readBytes s.srcOffset 16 s.draws).2 }

/-- EXPAND (R186). -/
def execExpand (s : State) : Host.Outcome State Fault Refusal := .next (s.settle s.expandBody)

/-- KSCLR (R187). -/
def execKsclr (s : State) : Host.Outcome State Fault Refusal :=
  .next (s.settle (.ok { s with rk := zeroKeys, ksv := false }))

end Sys2Proof.Machine
end

