-- ==== Sys2Proof/Machine/Segmenter.lean ====
section
/-! DEFINITION. The segmenter: the pure functions pad and unpad (40_segmenter.md R151, R153) and the commands PAD
and UNPAD (R155, R156). -/

namespace Sys2Proof.Machine

/-- The padding of a message of `n` bytes: `r` copies of the byte `r` (R151). -/
def paddingBytes (n : Nat) : List Byte := List.replicate (padLength n) (BitVec.ofNat 8 (padLength n))

/-- `pad(data)` (R151). -/
def padded (data : List Byte) : List Byte := data ++ paddingBytes data.length

/-- `unpad(data)` (R153): the length of the unpadded string, or InvalidPadding. The byte `n` is bounded by the
length only (R154). -/
def unpaddedLength (data : List Byte) : Except ErrCode Nat :=
  if data.length = 0 then .ok 0
  else
    let n := (data.getD (data.length - 1) 0).toNat
    if n = 0 ∨ data.length < n then .error .invalidPadding
    else if (data.drop (data.length - n)).all (fun b => b.toNat == n) then .ok (data.length - n)
    else .error .invalidPadding

/-- The checks and writes of PAD (R155): only the padding bytes are written. -/
def State.padBody (s : State) : Except ErrCode State :=
  if !s.fits s.srcOffset (s.lenBytes + padLength s.lenBytes) then .error .range
  else
    .ok { s with
      mem := s.mem.writeBytes (s.srcOffset + s.lenBytes) (paddingBytes s.lenBytes)
      result := BitVec.ofNat 32 (s.lenBytes + padLength s.lenBytes) }

/-- PAD (R155). -/
def execPad (s : State) : Host.Outcome State Fault Refusal := .next (s.settle s.padBody)

/-- What UNPAD finds (R156): the unpadded length or the error, and how many free values its reads drew. The last
byte is read once as `n` and once more among the final `n` bytes, and the two reads of a byte never written may
differ (10_state.md R48; notes/assumptions/14.md). -/
def State.unpadScan (s : State) : Except ErrCode Nat × Nat :=
  let a := s.srcOffset
  let len := s.lenBytes
  if !s.fits a len then (.error .range, s.draws)
  else if len = 0 then (.ok 0, s.draws)
  else
    let last := s.mem.readBytes (a + len - 1) 1 s.draws
    let n := (last.1.getD 0 0).toNat
    if n = 0 ∨ len < n then (.error .invalidPadding, last.2)
    else
      let final := s.mem.readBytes (a + len - n) n last.2
      if final.1.all (fun b => b.toNat == n) then (.ok (len - n), final.2)
      else (.error .invalidPadding, final.2)

/-- UNPAD (R156): BUF is never written, RESULT on success only. -/
def execUnpad (s : State) : Host.Outcome State Fault Refusal :=
  let t := { s with draws := s.unpadScan.2 }
  .next (t.settle (s.unpadScan.1.map fun n => { t with result := BitVec.ofNat 32 n }))

end Sys2Proof.Machine
end

