-- ==== Sys2Proof/Machine/Engine.lean ====
section
/-! DEFINITION. The engine's move (44_host_interface.md R302): decode the latched word, perform the command on the
latched operands, complete; and what stays open of it after a hazard (70_reset_and_hazards.md R380). -/

namespace Sys2Proof.Machine

/-- The commands whose result is the key schedule: EXPAND and KSCLR (41_key_schedule.md R186, R187). -/
def writesSchedule : Instr → Bool
  | .nop => false
  | .expand => true
  | .encrypt => false
  | .decrypt => false
  | .pad => false
  | .unpad => false
  | .ksclr => true

/-- The accepted command is an EXPAND or a KSCLR (70_reset_and_hazards.md R381). -/
def scheduleCommand (w : Word) : Bool :=
  match decode w with
  | .ok i => writesSchedule i
  | .error _ => false

/-- An ILLEGAL word completes with its code "and nothing else" (R302, 30_encoding.md R125). -/
def State.illegal (s : State) : State := s.complete .illegalCommand

/-- An open byte, word and block: free values. -/
def openByte (d : Nat) : Byte := Config.draw d

/-- A word of four free values. -/
def openWord (d : Nat) : Word := leWordOf (drawBytes 4 d).1

/-- A block of sixteen free values. -/
def openBlock (d : Nat) : Block := Block.ofBytes (drawBytes 16 d).1

/-- Eleven round keys of free values. -/
def openKeys (d : Nat) : RoundKeys := Vector.ofFn fun j => openBlock (d + 16 * j.val)

/-- After a hazard "what BUF, the command's result or later reads hold ... is not defined" (R380): BUF becomes
uninitialised, ERR and RESULT free, and the schedule too where it is the command's result. The completion itself
stands (44_host_interface.md R303; notes/assumptions/10.md). -/
def State.taint (s : State) (w : Word) : State :=
  { s with
    mem := []
    err := openByte s.draws
    result := openWord (s.draws + 1)
    rk := if scheduleCommand w then openKeys (s.draws + 6) else s.rk
    ksv := if scheduleCommand w then (openByte (s.draws + 5)).getLsbD 0 else s.ksv
    draws := s.draws + 182 }

/-- The outcome of a completed command, with what a hazard leaves open of it. -/
def State.afterHazard (hazard : Bool) (w : Word) :
    Host.Outcome State Fault Refusal → Host.Outcome State Fault Refusal
  | .next t => .next (if hazard then t.taint w else t)
  | .fault r => .fault r
  | .refused r => .refused r

/-- The rule of the accepted word (R302): the command's meaning, or the illegal completion. -/
def State.runLatched (s : State) : Host.Outcome State Fault Refusal :=
  match decode s.cur.word with
  | .ok i => exec i s
  | .error _ => .next s.illegal

/-- The engine's move. An idle engine does nothing (60_exceptions.md R348). -/
def engineStep (s : State) : Host.Outcome State Fault Refusal :=
  if s.busy then State.afterHazard s.hazard s.cur.word s.runLatched else .next s

end Sys2Proof.Machine
end

