-- ==== Sys2Proof/Machine/Flags.lean ====
section
/-! DEFINITION. The fields of CTRL and STATUS as the words a host reads and writes (10_state.md R35, R37) and the
interrupt output (R52). -/

namespace Sys2Proof.Machine

/-- One bit as a word. -/
def bitWord (b : Bool) : Word := (BitVec.ofBool b).setWidth 32

/-- The word a read of CTRL returns (R37): IE in bit 0; SRST and the reserved bits read 0. -/
def State.ctrlWord (s : State) : Word := bitWord s.ie

/-- The word a read of STATUS returns (R35): BUSY, DONE, KSV, OVR in bits 0 to 3; the rest 0. -/
def State.statusWord (s : State) : Word :=
  bitWord s.busy ||| (bitWord s.done <<< 1) ||| (bitWord s.ksv <<< 2) ||| (bitWord s.ovr <<< 3)

/-- A host write to STATUS (R35): writing 1 to bit 1 clears DONE, to bit 3 clears OVR; nothing else. -/
def State.writeStatus (s : State) (v : Word) : State :=
  { s with done := s.done && !v.getLsbD 1, ovr := s.ovr && !v.getLsbD 3 }

/-- A host write to CTRL (R37): with bit 1 set the soft reset and nothing else, otherwise IE <- v[0]. -/
def State.writeCtrl (s : State) (v : Word) : State :=
  if v.getLsbD 1 then s.warmReset else { s with ie := v.getLsbD 0 }

/-- The level output `IRQ = CTRL.IE AND STATUS.DONE` (R52). -/
def State.irq (s : State) : Bool := s.ie && s.done

end Sys2Proof.Machine
end

