-- ==== Sys2Proof/Machine/HostPort.lean ====
section
/-! DEFINITION. The register port and the buffer port: which transactions are malformed, what reads return and what
writes do (44_host_interface.md R290 to R296). -/

namespace Sys2Proof.Machine

/-- The register at a word-aligned offset (10_state.md R33). -/
def Reg.ofOffset (o : Nat) : Reg :=
  match o / 4 with
  | 0 => .id
  | 1 => .ctrl
  | 2 => .status
  | 3 => .err
  | 4 => .cmd
  | 5 => .src
  | 6 => .dst
  | 7 => .len
  | 8 => .result
  | 9 => .nr
  | 10 => .bufSize
  | k => if 64 ≤ k ∧ k < 108 then .rkw (k - 64) else .reserved

/-- The offset of a named register (R33); a reserved place has no offset of its own and gives the first one. -/
def Reg.offset : Reg → Word
  | .id => 0x000
  | .ctrl => 0x004
  | .status => 0x008
  | .err => 0x00C
  | .cmd => 0x010
  | .src => 0x014
  | .dst => 0x018
  | .len => 0x01C
  | .result => 0x020
  | .nr => 0x024
  | .bufSize => 0x028
  | .rkw k => BitVec.ofNat 32 (0x100 + 4 * k)
  | .reserved => 0x02C

/-- Word `k = 4j + m` of the round-key window: the little-endian word of `RK[j][4m..4m+3]` (R45). -/
def windowWord (rk : RoundKeys) (k : Nat) : Word := leWordOf ((roundKeyAt rk (k / 4)).column (k % 4)).toBytes

/-- The round-key window is open: an EXPAND or KSCLR is executing (70_reset_and_hazards.md R381;
notes/assumptions/12.md). -/
def State.windowOpen (s : State) : Bool := s.busy && scheduleCommand s.cur.word

/-- The value of a register (10_state.md R34 to R46). -/
def State.readReg (s : State) : Reg → Word
  | .id => s.idValue
  | .ctrl => s.ctrlWord
  | .status => s.statusWord
  | .err => s.err.setWidth 32
  | .cmd => s.cmd
  | .src => s.src
  | .dst => s.dst
  | .len => s.len
  | .result => s.result
  | .nr => roundCount
  | .bufSize => BitVec.ofNat 32 s.bufSize
  | .rkw k => if s.windowOpen then openWord s.draws else windowWord s.rk k
  | .reserved => 0

/-- How many free values a register read draws: four for a window word that is open, none otherwise. -/
def State.regDraws (s : State) : Reg → Nat
  | .rkw _ => if s.windowOpen then 4 else 0
  | _ => 0

/-- A register write, by register (44_host_interface.md R292). -/
def State.writeReg (s : State) (r : Reg) (v : Word) : State :=
  match r with
  | .ctrl => s.writeCtrl v
  | .status => s.writeStatus v
  | .cmd => s.writeCmd v
  | .src => { s with src := v }
  | .dst => { s with dst := v }
  | .len => { s with len := v }
  | .id => s
  | .err => s
  | .result => s
  | .nr => s
  | .bufSize => s
  | .rkw _ => s
  | .reserved => s

/-- The memory a host read sees: nothing is defined while the engine is busy (70_reset_and_hazards.md R381). -/
def State.hostView (s : State) : Memory := if s.busy then [] else s.mem

/-- The bytes a host buffer read of `n` bytes returns, and the draws after it (44_host_interface.md R294). -/
def State.readBuffer (s : State) (a n : Nat) : List Byte × Nat := s.hostView.readBytes a n s.draws

/-- A host buffer write (R295). While the engine is busy it is a hazard: HAZARD is set and BUF is open from then on
(70_reset_and_hazards.md R380); after a hazard BUF stays open (notes/assumptions/10.md). -/
def State.writeBuffer (s : State) (a : Nat) (bytes : List Byte) : State :=
  if s.busy then { s with hazard := true, mem := [] }
  else if s.hazard then s
  else { s with mem := s.mem.writeBytes a bytes }

/-- Why the model refuses a transaction (44_host_interface.md R293, R296); `none` for a transaction of the engine. -/
def Txn.refusal (bufSize : Nat) (t : Txn) : Option Refusal :=
  match t.space with
  | .reg =>
    if t.width ≠ 32 then some .registerWidth
    else if t.offset.toNat % 4 ≠ 0 then some .registerAlignment
    else if 0x1000 ≤ t.offset.toNat then some .registerOffset
    else Option.none
  | .buf =>
    if t.width = 8 then
      if bufSize ≤ t.offset.toNat then some .bufferRange else Option.none
    else if t.width = 32 then
      if t.offset.toNat % 4 ≠ 0 then some .bufferAlignment
      else if bufSize < t.offset.toNat + 4 then some .bufferRange
      else Option.none
    else some .bufferWidth

/-- How many bytes a buffer transaction moves (R294, R295). -/
def Txn.byteCount (t : Txn) : Nat := if t.width = 8 then 1 else 4

/-- The value a read transaction returns. -/
def State.readValue (s : State) (t : Txn) : Word :=
  match t.space with
  | .reg => s.readReg (Reg.ofOffset t.offset.toNat)
  | .buf => leWordOf (s.readBuffer t.offset.toNat t.byteCount).1

/-- The state after a read transaction: "no register read has a side effect" and "No buffer access has a side effect"
(20_memory.md R88), so only the count of free values moves. -/
def State.afterRead (s : State) (t : Txn) : State :=
  match t.space with
  | .reg => { s with draws := s.draws + s.regDraws (Reg.ofOffset t.offset.toNat) }
  | .buf => { s with draws := (s.readBuffer t.offset.toNat t.byteCount).2 }

/-- The state after a write transaction (R292, R295). -/
def State.afterWrite (s : State) (t : Txn) : State :=
  match t.space with
  | .reg => s.writeReg (Reg.ofOffset t.offset.toNat) t.data
  | .buf => s.writeBuffer t.offset.toNat ((leBytes t.data).take t.byteCount)

end Sys2Proof.Machine
end

