-- ==== Sys2Proof/Machine/HostProgram.lean ====
section
/-! DEFINITION. The host's move: its program, one statement at a time (44_host_interface.md R310, R311), and the
host-program notation with its pseudo-instructions and the two sessions (30_encoding.md R126 to R128,
44_host_interface.md R315, R316). -/

namespace Sys2Proof.Machine

/-- The host takes note of a value a read returned. -/
def State.noteRead (s : State) (v : Word) : State := { s with host := { s.host with reads := v :: s.host.reads } }

/-- The host continues at statement `n`. -/
def State.goto (s : State) (n : Nat) : State := { s with host := { s.host with hpc := n } }

/-- A transaction of the engine, performed (44_host_interface.md R291, R292, R294, R295). -/
def State.perform (s : State) (t : Txn) : State :=
  match t.dir with
  | .read => (s.afterRead t).noteRead (s.readValue t)
  | .write => s.afterWrite t

/-- The register read of a `brs` (30_encoding.md R126, R128). -/
def brsTxn (offset : Word) : Txn := { space := .reg, dir := .read, width := 32, offset := offset, data := 0 }

/-- The transaction a statement performs, if any. -/
def Stmt.txn? : Stmt → Option Txn
  | .txn t => some t
  | .brs o _ _ => some (brsTxn o)
  | .halt => Option.none

/-- The statement the host is at; `none` past the last one. -/
def State.statement (s : State) : Option Stmt := s.host.program[s.host.hpc]?

/-- The host program has ended (R311): at `halt`, or past the last statement. -/
def State.hostEnded (s : State) : Bool :=
  match s.statement with
  | Option.none => true
  | some .halt => true
  | some (.txn _) => false
  | some (.brs _ _ _) => false

/-- The run has ended (R313): the host program has ended and no command executes. -/
def State.runEnded (s : State) : Bool := s.hostEnded && !s.busy

/-- Where the host continues after a statement (R310, R311). -/
def State.nextHpc (s : State) : Stmt → Nat
  | .txn _ => s.host.hpc + 1
  | .brs o m l => if s.readValue (brsTxn o) &&& m ≠ 0 then l else s.host.hpc + 1
  | .halt => s.host.hpc

/-- One statement: a malformed transaction is refused (R293, R296), a `halt` performs nothing. -/
def State.runStmt (s : State) (st : Stmt) : Host.Outcome State Fault Refusal :=
  match st.txn? with
  | Option.none => .next s
  | some t =>
    match t.refusal s.bufSize with
    | some r => .refused r
    | Option.none => .next ((s.perform t).goto (s.nextHpc st))

/-- The host's move: "the host then performs no more transactions" once its program has ended (R311). -/
def hostStep (s : State) : Host.Outcome State Fault Refusal :=
  match s.statement with
  | Option.none => .next s
  | some st => s.runStmt st

/-- A line of the host-program notation after the expansion of its pseudo-instructions (R126, R127). A label is
numbered (notes/assumptions/25.md); `wait` keeps a line of its own because its label is fresh per use. -/
inductive Source where
  | label (name : Nat)
  | txn (t : Txn)
  | brs (offset mask : Word) (label : Nat)
  | halt
  | wait
deriving DecidableEq, Repr

/-- How many statements a line is: a label none, everything else one. -/
def Source.size : Source → Nat
  | .label _ => 0
  | .txn _ => 1
  | .brs _ _ _ => 1
  | .halt => 1
  | .wait => 1

/-- The statement index of a label, the first statement of `lines` having the index given. Of a name defined twice the
first definition counts, the model's choice where R126 says nothing (DESIGN CHOICE, notes/assumptions/25.md). -/
def labelIndex (name : Nat) : List Source → Nat → Option Nat
  | [], _ => Option.none
  | .label n :: rest, k => if n = name then some k else labelIndex name rest k
  | line :: rest, k => labelIndex name rest (k + line.size)

/-- The statement of a line that stands at index `k` (R126); `wait` is `Lw: brs STATUS, 0x1, Lw` (R127). -/
def Source.statement (program : List Source) (k : Nat) : Source → Option (List Stmt)
  | .label _ => some []
  | .txn t => some [.txn t]
  | .brs o m l => (labelIndex l program 0).map fun n => [.brs o m n]
  | .halt => some [.halt]
  | .wait => some [.brs Reg.status.offset 0x1 k]

/-- The statements of `lines`, the first at index `k`; none when a label is not defined. -/
def assembleFrom (program : List Source) : List Source → Nat → Option (List Stmt)
  | [], _ => some []
  | line :: rest, k =>
    match line.statement program k, assembleFrom program rest (k + line.size) with
    | some st, some sts => some (st ++ sts)
    | _, _ => Option.none

/-- A host program from its source (R126, 44_host_interface.md R310). -/
def assemble (program : List Source) : Option (List Stmt) := assembleFrom program program 0

/-- `wreg R, v`. -/
def wreg (offset v : Word) : Source := .txn { space := .reg, dir := .write, width := 32, offset := offset, data := v }

/-- `rreg R`. -/
def rreg (offset : Word) : Source := .txn { space := .reg, dir := .read, width := 32, offset := offset, data := 0 }

/-- `wbuf8 a, b0, ..., bn`: that many byte writes, in order (R310). -/
def wbuf8 : Word → List Byte → List Source
  | _, [] => []
  | a, b :: bs =>
    .txn { space := .buf, dir := .write, width := 8, offset := a, data := b.setWidth 32 } :: wbuf8 (a + 1) bs

/-- `wbuf32 a, v`. -/
def wbuf32 (a v : Word) : Source := .txn { space := .buf, dir := .write, width := 32, offset := a, data := v }

/-- `rbuf8 a`. -/
def rbuf8 (a : Word) : Source := .txn { space := .buf, dir := .read, width := 8, offset := a, data := 0 }

/-- `rbuf32 a`. -/
def rbuf32 (a : Word) : Source := .txn { space := .buf, dir := .read, width := 32, offset := a, data := 0 }

/-- `cmd 0xNNNNNNNN`: a raw word to CMD. -/
def cmdWord (w : Word) : Source := wreg Reg.cmd.offset w

/-- `cmd M`: the word of a mnemonic to CMD. -/
def cmdOf (i : Instr) : Source := cmdWord (encode i)

/-- `run M`. -/
def run (i : Instr) : List Source := [cmdOf i, .wait]

/-- `run 0xNNNNNNNN`, as programs of 95_test_vectors.md use it. -/
def runWord (w : Word) : List Source := [cmdWord w, .wait]

/-- `clrdone`. -/
def clrdone : Source := wreg Reg.status.offset 0x2

/-- `clrovr`. -/
def clrovr : Source := wreg Reg.status.offset 0x8

/-- `softreset`. -/
def softreset : Source := wreg Reg.ctrl.offset 0x2

/-- `operands s, d, l`. -/
def operands (s d l : Word) : List Source := [wreg Reg.src.offset s, wreg Reg.dst.offset d, wreg Reg.len.offset l]

/-- `expand s`. -/
def expandAt (s : Word) : List Source := [wreg Reg.src.offset s, wreg Reg.len.offset 16] ++ run .expand

/-- `encrypt s, d, l`. -/
def encryptAt (s d l : Word) : List Source := operands s d l ++ run .encrypt

/-- `decrypt s, d, l`. -/
def decryptAt (s d l : Word) : List Source := operands s d l ++ run .decrypt

/-- `pad s, l`. -/
def padAt (s l : Word) : List Source := [wreg Reg.src.offset s, wreg Reg.len.offset l] ++ run .pad

/-- `unpad s, l`. -/
def unpadAt (s l : Word) : List Source := [wreg Reg.src.offset s, wreg Reg.len.offset l] ++ run .unpad

/-- `ksclr`. -/
def ksclrRun : List Source := run .ksclr

/-- ERR is read after a step of a session, and a nonzero code ends the session (R315, 60_exceptions.md R339). -/
def checkErr : Source := .brs Reg.err.offset 0xFF 0

/-- The encrypt session (44_host_interface.md R315): key at `k`, message at `m`, destination `c`. -/
def encryptSession (k m c : Word) (key message : List Byte) : List Source :=
  wbuf8 k key ++ wbuf8 m message ++ expandAt k ++ [checkErr]
    ++ padAt m (BitVec.ofNat 32 message.length) ++ [checkErr]
    ++ encryptAt m c (BitVec.ofNat 32 (16 * (message.length / 16 + 1))) ++ [checkErr]
    ++ [.halt, .label 0, .halt]

/-- The decrypt session (R316): key at `k`, ciphertext at `c`, destination `m`. It does not pad. -/
def decryptSession (k c m : Word) (key ciphertext : List Byte) : List Source :=
  wbuf8 k key ++ wbuf8 c ciphertext ++ expandAt k ++ [checkErr]
    ++ decryptAt c m (BitVec.ofNat 32 ciphertext.length) ++ [checkErr]
    ++ unpadAt m (BitVec.ofNat 32 ciphertext.length) ++ [checkErr]
    ++ [.halt, .label 0, .halt]

end Sys2Proof.Machine
end

