-- ==== Sys2Proof/Machine/Step.lean ====
section
/-! DEFINITION. One step of the whole machine: whose move it is, and that move (44_host_interface.md R303,
70_reset_and_hazards.md R370). -/

namespace Sys2Proof.Machine

/-- Whose move the next step is: what the queue says, and once it is empty the engine's whenever it is busy, else the
host's. So every accepted command completes (R303; notes/assumptions/6.md). -/
def State.nextTurn (s : State) : Turn :=
  match s.turns with
  | t :: _ => t
  | [] => if s.busy then .engine else .host

/-- The move is taken from the queue. -/
def State.takeTurn (s : State) : State := { s with turns := s.turns.tail }

/-- One step: one move of one agent. -/
def step (s : State) : Host.Outcome State Fault Refusal :=
  match s.nextTurn with
  | .host => hostStep s.takeTurn
  | .engine => engineStep s.takeTurn
  | .hardReset => .next s.takeTurn.warmReset
  | .powerOn => .next s.takeTurn.powerOnReset

/-- `s` with the command word whose bits are `w` accepted on the operands in SRC, DST and LEN (R300) and the next move
the engine's, so that the very next step performs exactly that command. The engine fetches nothing (10_state.md R32):
acceptance is where a command word is placed (notes/assumptions/8.md). More than 32 set bits are no command word, and
nothing is placed. -/
def State.withFetchWord (s : State) (nbits w : Nat) : State :=
  match tableWord nbits w with
  | some v => { s.accept v with turns := .engine :: s.turns }
  | Option.none => s

end Sys2Proof.Machine
end

