-- ==== Sys2Proof/Machine/Lanes.lean ====
section
/-! DEFINITION. The lanes inside ENCRYPT and DECRYPT (10_state.md R51, 43_block_commands.md R266 to R268): a machine
beside the step, in which any number of lanes take blocks in any order and interleave round by round. The step uses
the sequential order instead, which R268 allows; that the two agree is an obligation (notes/assumptions/9.md, 24.md). -/

namespace Sys2Proof.Machine

/-- What a lane holds while it works on a block: "a 16-byte cipher state and a round index 0..10" (R51), and which
block (R266). -/
structure Lane where
  block : Nat
  state : Block
  round : Nat
deriving DecidableEq, Repr

/-- The command the lanes work on, fixed during it (20_memory.md R99). -/
structure LaneJob where
  inverse : Bool
  rk : RoundKeys
  src : Nat
  dst : Nat
deriving DecidableEq, Repr

/-- The lanes, the blocks no lane has taken, the buffer and the draws of its uninitialised bytes. -/
structure LaneArray where
  lanes : List (Option Lane)
  waiting : List Nat
  mem : Memory
  draws : Nat
deriving DecidableEq, Repr

/-- A move of one lane. -/
inductive LaneMove where
  /-- An idle lane takes a waiting block: it reads the block and mixes the first round key in. -/
  | take (lane block : Nat)
  /-- A working lane does its next round, or writes its finished block and becomes idle. -/
  | advance (lane : Nat)
deriving DecidableEq, Repr

/-- The initial key mix (42_block_transform.md R223, R224). -/
def LaneJob.firstMix (j : LaneJob) (b : Block) : Block :=
  if j.inverse then addRoundKey b (roundKeyAt j.rk 10) else addRoundKey b (roundKeyAt j.rk 0)

/-- Round `r` of the transform, `r = 1..10` (R223, R224). -/
def LaneJob.roundOf (j : LaneJob) (r : Nat) (s : Block) : Block :=
  if j.inverse then
    if r < 10 then invFullRound s (roundKeyAt j.rk (10 - r)) else invFinalRound s (roundKeyAt j.rk 0)
  else
    if r < 10 then fullRound s (roundKeyAt j.rk r) else finalRound s (roundKeyAt j.rk 10)

/-- One lane move; none where it is not enabled. -/
def laneStep (j : LaneJob) (g : LaneArray) : LaneMove → Option LaneArray
  | .take l i =>
    match g.lanes[l]? with
    | some Option.none =>
      if i ∈ g.waiting then
        some { g with
          lanes := g.lanes.set l (some
            { block := i
              state := j.firstMix (Block.ofBytes (g.mem.readBytes (j.src + 16 * i) 16 g.draws).1)
              round := 0 })
          waiting := g.waiting.erase i
          draws := (g.mem.readBytes (j.src + 16 * i) 16 g.draws).2 }
      else Option.none
    | _ => Option.none
  | .advance l =>
    match g.lanes[l]? with
    | some (some w) =>
      if w.round < 10 then
        some { g with
          lanes := g.lanes.set l (some { w with state := j.roundOf (w.round + 1) w.state, round := w.round + 1 }) }
      else
        some { g with
          lanes := g.lanes.set l Option.none
          mem := g.mem.writeBytes (j.dst + 16 * w.block) w.state.toBytes }
    | _ => Option.none

/-- A sequence of lane moves; none where one of them is not enabled. -/
def laneRun (j : LaneJob) : List LaneMove → LaneArray → Option LaneArray
  | [], g => some g
  | mv :: mvs, g =>
    match laneStep j g mv with
    | some g' => laneRun j mvs g'
    | Option.none => Option.none

/-- The lanes at acceptance: `nlanes` idle lanes, every one of the `n` blocks waiting. -/
def LaneArray.start (nlanes n : Nat) (mem : Memory) (draws : Nat) : LaneArray :=
  { lanes := List.replicate nlanes Option.none, waiting := List.range n, mem := mem, draws := draws }

/-- The engine's own lanes at acceptance: `NLANES` of them, at least one (00_scope.md R9, R266). -/
def LaneArray.engine (n : Nat) (mem : Memory) (draws : Nat) : LaneArray := LaneArray.start Config.nLanes n mem draws

/-- All lanes have finished: no block waits and every lane is idle (60_exceptions.md R346). -/
def LaneArray.finished (g : LaneArray) : Bool := g.waiting.isEmpty && g.lanes.all (·.isNone)

end Sys2Proof.Machine
end

