-- ==== Sys2Proof/Safety.lean ====
section
/-! DEFINITION. The terms claims are stated in: safe runs, legal parameters, the invariants of the engine, which moves
are resets or hazards, and what a command stores where. -/

namespace Sys2Proof.Machine

/-- A run is safe while HAZARD is 0: "every claim takes `HAZARD = 0` as a premise" (70_reset_and_hazards.md R380). -/
def State.safe (s : State) : Bool := !s.hazard

/-- `BUF_SIZE` is legal (00_scope.md R9). -/
def State.paramsLegal (s : State) : Bool := s.bufSize % 16 == 0 && (32 ≤ s.bufSize : Bool) && (s.bufSize ≤ 2 ^ 31 : Bool)

/-- Every listed byte lies below `n`. -/
def Memory.within (m : Memory) (n : Nat) : Bool := m.all fun c => c.1 < n

/-- All `n` bytes from `a` have been written since power-on (10_state.md R48). -/
def State.written (s : State) (a n : Nat) : Bool := (s.mem.bytesAt a n).isSome

/-- The buffer invariant: canonical form, no byte outside BUF (R47), a legal size (R9), and nothing known of BUF after
a hazard (R380). -/
def State.BufferInv (s : State) : Prop :=
  s.mem.wf = true ∧ s.mem.within s.bufSize = true ∧ s.paramsLegal = true ∧ (s.hazard = true → s.mem = [])

/-- The life-cycle invariant: never both BUSY and DONE (44_host_interface.md R300, R304), CMD reads back the latched
word (10_state.md R38, R50), and the latched code is its low byte (R50). -/
def State.LifeCycleInv (s : State) : Prop :=
  (s.busy = true → s.done = false) ∧ s.cur.word = s.cmd ∧ s.cur.opc = opcOf s.cur.word

/-- The schedule invariant (41_key_schedule.md R188): with KSV set, RK is the whole expansion of some key, and with
KSV clear it is all zero. -/
def State.ScheduleInv (s : State) : Prop :=
  s.hazard = false → (s.ksv = true → ∃ k, s.rk = keyExpansion k) ∧ (s.ksv = false → s.rk = zeroKeys)

/-- The error invariant (60_exceptions.md R331, R332): codes 0x08 and above are never produced. -/
def State.ErrorInv (s : State) : Prop := s.hazard = false → s.err.toNat < 8

/-- The transaction a step performs, when it is the host's move and its program has not ended. -/
def State.moveTxn (s : State) : Option Txn :=
  match s.nextTurn with
  | .host => s.statement.bind Stmt.txn?
  | .engine => Option.none
  | .hardReset => Option.none
  | .powerOn => Option.none

/-- A write of `v` to the register at offset `o`. -/
def regWrite (o v : Word) : Txn := { space := .reg, dir := .write, width := 32, offset := o, data := v }

/-- A read of the register at offset `o`. -/
def regRead (o : Word) : Txn := { space := .reg, dir := .read, width := 32, offset := o, data := 0 }

/-- A buffer write of the given width. -/
def bufWrite (width : Nat) (a v : Word) : Txn := { space := .buf, dir := .write, width := width, offset := a, data := v }

/-- A buffer read of the given width. -/
def bufRead (width : Nat) (a : Word) : Txn := { space := .buf, dir := .read, width := width, offset := a, data := 0 }

/-- The transaction writes to the register at offset `o`. -/
def Txn.writesReg (t : Txn) (o : Nat) : Bool := t.space == .reg && t.dir == .write && t.offset.toNat == o

/-- The transaction is a soft reset: a CTRL write with bit 1 set (10_state.md R37). -/
def Txn.softResets (t : Txn) : Bool := t.writesReg 0x004 && t.data.getLsbD 1

/-- The transaction writes BUF. -/
def Txn.writesBuf (t : Txn) : Bool := t.space == .buf && t.dir == .write

/-- The next step is a reset of one of the three kinds (70_reset_and_hazards.md R370). -/
def State.resetsNext (s : State) : Bool :=
  match s.nextTurn with
  | .hardReset => true
  | .powerOn => true
  | .engine => false
  | .host => s.moveTxn.any Txn.softResets

/-- The next step performs the accepted command. -/
def State.commandNext (s : State) : Bool :=
  match s.nextTurn with
  | .engine => s.busy
  | .hardReset => false
  | .powerOn => false
  | .host => false

/-- Where a command stores in BUF and how many bytes, with the expressions the commands use. -/
def storedRegion : Instr → State → Nat × Nat
  | .nop, _ => (0, 0)
  | .expand, _ => (0, 0)
  | .encrypt, s => (s.dstOffset, s.lenBytes)
  | .decrypt, s => (s.dstOffset, s.lenBytes)
  | .pad, s => (s.srcOffset + s.lenBytes, padLength s.lenBytes)
  | .unpad, _ => (0, 0)
  | .ksclr, _ => (0, 0)

/-- The commands that store in BUF when they succeed. -/
def storesBuffer : Instr → Bool
  | .nop => false
  | .expand => false
  | .encrypt => true
  | .decrypt => true
  | .pad => true
  | .unpad => false
  | .ksclr => false

/-- The commands that write RESULT when they succeed (10_state.md R42). -/
def writesResult : Instr → Bool
  | .nop => false
  | .expand => true
  | .encrypt => true
  | .decrypt => true
  | .pad => true
  | .unpad => true
  | .ksclr => false

/-- The operands pass `BlockChecks` (43_block_commands.md R261), spelled out. -/
def State.blockOperandsOk (s : State) : Prop :=
  s.ksv = true ∧
  (s.srcOffset % 16 = 0 ∧ s.dstOffset % 16 = 0 ∧ s.lenBytes % 16 = 0) ∧
  (s.srcOffset + s.lenBytes ≤ s.bufSize ∧ s.dstOffset + s.lenBytes ≤ s.bufSize) ∧
  (s.srcOffset = s.dstOffset ∨ s.dstOffset + s.lenBytes ≤ s.srcOffset ∨ s.srcOffset + s.lenBytes ≤ s.dstOffset)

/-- The block function of a block command (43_block_commands.md R262, R263). -/
def blockFunction (inverse : Bool) (rk : RoundKeys) (b : Block) : Block :=
  if inverse then invCipher b rk else cipher b rk

/-- The block command that uses it. -/
def blockCommand (inverse : Bool) : Instr := if inverse then .decrypt else .encrypt

end Sys2Proof.Machine
end

