-- ==== Sys2Proof/Certificates/Slice0/Obligations.lean ====
section
/-! DEFINITION. The statements for the provers: what the numbered rules of spec/ say the engine does. "The model's choice"
in a docstring marks a clause that rests on an entry of notes/assumptions/, not on the spec. -/

open Sys2Proof Sys2Proof.Machine

/-! ## Encoding -/

/-- R123, R125 on words written out: the seven codes, and illegal words of both kinds (95_test_vectors.md section 5). -/
def Obligations.CommandWordsDecode : Prop :=
  decode 0x00000000 = .ok .nop ∧ decode 0x00000001 = .ok .expand ∧ decode 0x00000002 = .ok .encrypt ∧
  decode 0x00000003 = .ok .decrypt ∧ decode 0x00000004 = .ok .pad ∧ decode 0x00000005 = .ok .unpad ∧
  decode 0x00000006 = .ok .ksclr ∧
  decode 0x00000007 = .error .reservedOpcode ∧ decode 0x000000FF = .error .reservedOpcode ∧
  decode 0x00000100 = .error .reservedField ∧ decode 0x00000102 = .error .reservedField ∧
  decode 0x80000000 = .error .reservedField ∧ decode 0xFFFFFFFF = .error .reservedField

/-- R124: "each of the seven commands has exactly one word". Over all 2^32 words, a word decodes to a command exactly when
it is that command's word. -/
def Obligations.DecodeEncodeAgree : Prop :=
  ∀ (w : Word) (i : Instr), decode w = .ok i ↔ w = encode i

/-- R124, the decoder over all 2^32 words: a nonzero RSV is ILLEGAL; otherwise OPC 0..6 are the commands and every other
OPC is ILLEGAL. -/
def Obligations.DecoderFollowsOpcodeMap : Prop :=
  ∀ w : Word,
    (w.extractLsb' 8 24 ≠ 0 → ∃ e, decode w = .error e) ∧
    (w.extractLsb' 8 24 = 0 →
      (w.extractLsb' 0 8 = 0x00 → decode w = .ok .nop) ∧
      (w.extractLsb' 0 8 = 0x01 → decode w = .ok .expand) ∧
      (w.extractLsb' 0 8 = 0x02 → decode w = .ok .encrypt) ∧
      (w.extractLsb' 0 8 = 0x03 → decode w = .ok .decrypt) ∧
      (w.extractLsb' 0 8 = 0x04 → decode w = .ok .pad) ∧
      (w.extractLsb' 0 8 = 0x05 → decode w = .ok .unpad) ∧
      (w.extractLsb' 0 8 = 0x06 → decode w = .ok .ksclr) ∧
      (0x07 ≤ (w.extractLsb' 0 8).toNat → ∃ e, decode w = .error e))

/-! ## The life of a command -/

/-- R302: the engine's step on an accepted command is the meaning of the decoded word. Around `exec` the step only takes
the move from the model's queue of moves (notes/assumptions/6.md); with HAZARD set what stays open of the outcome is
Obligations.HazardLeavesResultOpen. -/
def Obligations.StepRunsTheDecodedCommand : Prop :=
  ∀ (s : State) (i : Instr), s.nextTurn = .engine → s.busy = true → s.hazard = false → i.wf = true →
    decode s.cur.word = .ok i → step s = exec i { s with turns := s.turns.tail }

/-- R125: an illegal word written to CMD while BUSY = 0 is accepted like any command, and the engine's step completes it
with ERR_ILLEGAL_COMMAND and no other effect. (The premise HAZARD = 0 is R380's.) -/
def Obligations.IllegalWordIsAcceptedAndCompletes : Prop :=
  ∀ (s : State) (w : Word), s.busy = false → s.hazard = false →
    (w.extractLsb' 8 24 ≠ 0 ∨ 0x07 ≤ (w.extractLsb' 0 8).toNat) →
    s.afterWrite (regWrite 0x010 w) =
      { s with
        cmd := w, busy := true, done := false
        cur := { word := w, opc := w.extractLsb' 0 8, src := s.src, dst := s.dst, len := s.len } } ∧
    ∀ a : State, a = s.afterWrite (regWrite 0x010 w) →
      step { a with turns := .engine :: a.turns } = .next { a with err := 0x04, busy := false, done := true }

/-- R300: acceptance. A host write of `w` to CMD while idle latches the word, its code and the three operand registers,
clears DONE and sets BUSY, and does nothing else; while a command executes nothing is accepted. -/
def Obligations.AcceptanceLatchesOperands : Prop :=
  ∀ (s : State) (w : Word),
    (s.busy = false → s.afterWrite (regWrite 0x010 w) =
      { s with
        cmd := w
        cur := { word := w, opc := w.extractLsb' 0 8, src := s.src, dst := s.dst, len := s.len }
        done := false
        busy := true }) ∧
    (s.busy = true → (s.afterWrite (regWrite 0x010 w)).cur = s.cur ∧ (s.afterWrite (regWrite 0x010 w)).cmd = s.cmd)

/-- R301: a host write to CMD while BUSY = 1 sets OVR and changes nothing else. -/
def Obligations.CmdWriteWhileBusyOverruns : Prop :=
  ∀ (s : State) (w : Word), s.busy = true → s.afterWrite (regWrite 0x010 w) = { s with ovr := true }

/-- R303: every accepted command completes. The engine's move on any busy state, legal word or not, with or without
HAZARD, answers a next state with BUSY = 0 and DONE = 1; and once the queue of moves is empty a busy engine moves (the
model's choice of schedule, notes/assumptions/6.md). -/
def Obligations.AcceptedCommandCompletes : Prop :=
  ∀ s : State, s.busy = true → (s.nextTurn = .engine ∨ s.turns = []) →
    ∃ t, step s = .next t ∧ t.busy = false ∧ t.done = true

/-- R50: "Every command rule reads its operands from CUR": rewriting SRC, DST and LEN before the engine's move changes
nothing of what the command does. -/
def Obligations.CommandsReadTheLatchOnly : Prop :=
  ∀ (i : Instr) (s t : State) (x y z : Word), exec i s = .next t →
    exec i { s with src := x, dst := y, len := z } = .next { t with src := x, dst := y, len := z }

/-- R122: "An operand a command does not read may hold any value": DST for EXPAND, PAD and UNPAD, every operand for NOP
and KSCLR. -/
def Obligations.UnreadOperandsDoNotMatter : Prop :=
  (∀ (i : Instr) (s t : State) (x : Word), i = .expand ∨ i = .pad ∨ i = .unpad → exec i s = .next t →
    exec i { s with cur := { s.cur with dst := x } } = .next { t with cur := { t.cur with dst := x } }) ∧
  (∀ (i : Instr) (s t : State) (x y z : Word), i = .nop ∨ i = .ksclr → exec i s = .next t →
    exec i { s with cur := { s.cur with src := x, dst := y, len := z } }
      = .next { t with cur := { t.cur with src := x, dst := y, len := z } })

/-! ## The commands -/

/-- R260: NOP writes nothing but what every completion writes. -/
def Obligations.NopOnlyCompletes : Prop :=
  ∀ s : State, exec .nop s = .next { s with err := 0x00, busy := false, done := true }

/-- R186: EXPAND. The length is checked first, then the range; on success RK is the expansion of the sixteen key bytes,
KSV is 1 and RESULT is 10, and nothing else changes. On key bytes never written the command completes all the same, with
the expansion of a key whose open bytes are free values. -/
def Obligations.ExpandFillsTheSchedule : Prop :=
  ∀ s : State,
    (s.cur.len.toNat ≠ 16 → exec .expand s = .next { s with err := 0x01, busy := false, done := true }) ∧
    (s.cur.len.toNat = 16 → s.bufSize < s.cur.src.toNat + 16 →
      exec .expand s = .next { s with err := 0x05, busy := false, done := true }) ∧
    (∀ key, s.cur.len.toNat = 16 → s.cur.src.toNat + 16 ≤ s.bufSize → s.mem.bytesAt s.cur.src.toNat 16 = some key →
      exec .expand s = .next
        { s with rk := keyExpansion (Block.ofBytes key), ksv := true, result := 10, err := 0x00, busy := false, done := true }) ∧
    (s.cur.len.toNat = 16 → s.cur.src.toNat + 16 ≤ s.bufSize →
      ∃ key d, exec .expand s = .next
        { s with
          rk := keyExpansion key, ksv := true, result := 10, err := 0x00, busy := false, done := true, draws := d } ∧
        ∀ k, k < 16 → ∀ b, s.mem.read (s.cur.src.toNat + k) = some b → key.byte k = b)

/-- R187: KSCLR clears the round keys and KSV; RESULT, BUF and the rest are unchanged. -/
def Obligations.KsclrClearsTheSchedule : Prop :=
  ∀ s : State, exec .ksclr s = .next
    { s with rk := Vector.replicate 11 Block.zero, ksv := false, err := 0x00, busy := false, done := true }

/-- R155: PAD. ERR_RANGE when the padded stream does not fit, with nothing written; else exactly the `r` padding bytes
are written, each `r`, and RESULT is the padded length. -/
def Obligations.PadAppendsPaddingBytes : Prop :=
  ∀ (s : State) (a n r : Nat), a = s.cur.src.toNat → n = s.cur.len.toNat → r = 16 - n % 16 →
    (s.bufSize < a + n + r → exec .pad s = .next { s with err := 0x05, busy := false, done := true }) ∧
    (a + n + r ≤ s.bufSize →
      ∃ m, exec .pad s = .next
          { s with mem := m, result := BitVec.ofNat 32 (n + r), err := 0x00, busy := false, done := true } ∧
        ∀ x, m.read x = if a + n ≤ x ∧ x < a + n + r then some (BitVec.ofNat 8 r) else s.mem.read x)

/-- R156: UNPAD, with nothing asked of bytes it does not read. The range is checked first; an empty region succeeds; a
written last byte 0 or above the length, or a written final byte that differs from it, is ERR_INVALID_PADDING; with all of
the final bytes written and equal to it RESULT is the length less the last byte. BUF is never written, and RESULT only on
success. (Only the model's own count of draws can move, and only by final bytes never written, notes/assumptions/14.md.) -/
def Obligations.UnpadValidatesPadding : Prop :=
  ∀ (s : State) (a len : Nat), a = s.cur.src.toNat → len = s.cur.len.toNat →
    (s.bufSize < a + len → exec .unpad s = .next { s with err := 0x05, busy := false, done := true }) ∧
    (a + len ≤ s.bufSize → len = 0 →
      exec .unpad s = .next { s with result := 0, err := 0x00, busy := false, done := true }) ∧
    (∀ n, a + len ≤ s.bufSize → 0 < len → s.mem.read (a + len - 1) = some n →
      ((n.toNat = 0 ∨ len < n.toNat) →
        exec .unpad s = .next { s with err := 0x02, busy := false, done := true }) ∧
      (∀ k b, n.toNat ≤ len → 1 ≤ k → k ≤ n.toNat → s.mem.read (a + len - k) = some b → b ≠ n →
        ∃ d, exec .unpad s = .next { s with err := 0x02, busy := false, done := true, draws := d } ∧
          ((∀ m, 1 ≤ m → m ≤ n.toNat → s.mem.read (a + len - m) ≠ none) → d = s.draws)) ∧
      (1 ≤ n.toNat → n.toNat ≤ len → (∀ k, 1 ≤ k → k ≤ n.toNat → s.mem.read (a + len - k) = some n) →
        exec .unpad s = .next
          { s with result := BitVec.ofNat 32 (len - n.toNat), err := 0x00, busy := false, done := true }))

/-- R156 on any data, written or not (the model's choice for bytes never written, notes/assumptions/4.md and 14.md): UNPAD
completes, and all it can change besides the completion is RESULT, with a value at most the length. -/
def Obligations.UnpadCompletesOnAnyData : Prop :=
  ∀ s : State, s.cur.src.toNat + s.cur.len.toNat ≤ s.bufSize →
    ∃ d, (exec .unpad s = .next { s with err := 0x02, busy := false, done := true, draws := d }) ∨
      (∃ n, n ≤ s.cur.len.toNat ∧ exec .unpad s = .next
        { s with result := BitVec.ofNat 32 n, err := 0x00, busy := false, done := true, draws := d })

/-- R151, R153, R155, R156: PAD turns a message in BUF into `pad` of it, and UNPAD computes `unpad` of the bytes. -/
def Obligations.SegmenterComputesThePureFunctions : Prop :=
  (∀ (s t : State) (data : List Byte), s.mem.bytesAt s.cur.src.toNat s.cur.len.toNat = some data →
    s.cur.src.toNat + (padded data).length ≤ s.bufSize → exec .pad s = .next t →
    t.err = 0x00 ∧ t.mem.bytesAt s.cur.src.toNat (padded data).length = some (padded data)) ∧
  (∀ (s : State) (data : List Byte), s.mem.bytesAt s.cur.src.toNat s.cur.len.toNat = some data →
    s.cur.src.toNat + s.cur.len.toNat ≤ s.bufSize →
    exec .unpad s = .next
      (match unpaddedLength data with
        | .ok n => { s with result := BitVec.ofNat 32 n, err := 0x00, busy := false, done := true }
        | .error e => { s with err := e.code, busy := false, done := true }))

/-- R158: PAD at `(a, L)` and then UNPAD at `(a, RESULT)` completes with ERR_NONE and RESULT = `L`, for every message that
fits, the empty one included; nothing is asked of the message bytes. -/
def Obligations.PadThenUnpadReturnsLength : Prop :=
  ∀ s t : State, s.paramsLegal = true → s.cur.src.toNat + 16 * (s.cur.len.toNat / 16 + 1) ≤ s.bufSize →
    exec .pad s = .next t →
    t.err = 0x00 ∧ t.result.toNat = 16 * (s.cur.len.toNat / 16 + 1) ∧
    ∃ u, exec .unpad { t with cur := { t.cur with len := t.result } } = .next u ∧
      u.err = 0x00 ∧ u.result = s.cur.len ∧ u.mem = t.mem

/-- R261: `BlockChecks` of ENCRYPT and DECRYPT, in its order: KSV, alignment, range, overlap; each raises its code and
changes nothing else. -/
def Obligations.BlockChecksInOrder : Prop :=
  ∀ (s : State) (i : Instr) (a d len : Nat), i = .encrypt ∨ i = .decrypt →
    a = s.cur.src.toNat → d = s.cur.dst.toNat → len = s.cur.len.toNat →
    (s.ksv = false → exec i s = .next { s with err := 0x03, busy := false, done := true }) ∧
    (s.ksv = true → (a % 16 ≠ 0 ∨ d % 16 ≠ 0 ∨ len % 16 ≠ 0) →
      exec i s = .next { s with err := 0x06, busy := false, done := true }) ∧
    (s.ksv = true → a % 16 = 0 → d % 16 = 0 → len % 16 = 0 → (s.bufSize < a + len ∨ s.bufSize < d + len) →
      exec i s = .next { s with err := 0x05, busy := false, done := true }) ∧
    (s.ksv = true → a % 16 = 0 → d % 16 = 0 → len % 16 = 0 → a + len ≤ s.bufSize → d + len ≤ s.bufSize →
      a ≠ d → a < d + len → d < a + len →
      exec i s = .next { s with err := 0x07, busy := false, done := true })

/-- R262: ENCRYPT. When `BlockChecks` fails (Obligations.BlockChecksInOrder says with which code) nothing but the
completion is written. With the checks passed, on written source bytes, destination block `i` is `Cipher` of source block
`i` for every block, bytes outside the destination are unchanged, RESULT is the byte count, and nothing else changes. In
place (R264) is the case of equal offsets. -/
def Obligations.EncryptTransformsEachBlock : Prop :=
  ∀ s : State,
    (¬ s.blockOperandsOk → ∃ e : Byte, (e = 0x03 ∨ e = 0x06 ∨ e = 0x05 ∨ e = 0x07) ∧
      exec .encrypt s = .next { s with err := e, busy := false, done := true }) ∧
    (s.blockOperandsOk → s.written s.cur.src.toNat s.cur.len.toNat = true →
      ∃ m, exec .encrypt s = .next
          { s with mem := m, result := s.cur.len, err := 0x00, busy := false, done := true } ∧
        (∀ i, i < s.cur.len.toNat / 16 → ∃ b, s.mem.bytesAt (s.cur.src.toNat + 16 * i) 16 = some b ∧
          m.bytesAt (s.cur.dst.toNat + 16 * i) 16 = some (cipher (Block.ofBytes b) s.rk).toBytes) ∧
        (∀ x, x < s.cur.dst.toNat ∨ s.cur.dst.toNat + s.cur.len.toNat ≤ x → m.read x = s.mem.read x))

/-- R263: DECRYPT, as ENCRYPT with `InvCipher`. -/
def Obligations.DecryptTransformsEachBlock : Prop :=
  ∀ s : State,
    (¬ s.blockOperandsOk → ∃ e : Byte, (e = 0x03 ∨ e = 0x06 ∨ e = 0x05 ∨ e = 0x07) ∧
      exec .decrypt s = .next { s with err := e, busy := false, done := true }) ∧
    (s.blockOperandsOk → s.written s.cur.src.toNat s.cur.len.toNat = true →
      ∃ m, exec .decrypt s = .next
          { s with mem := m, result := s.cur.len, err := 0x00, busy := false, done := true } ∧
        (∀ i, i < s.cur.len.toNat / 16 → ∃ b, s.mem.bytesAt (s.cur.src.toNat + 16 * i) 16 = some b ∧
          m.bytesAt (s.cur.dst.toNat + 16 * i) 16 = some (invCipher (Block.ofBytes b) s.rk).toBytes) ∧
        (∀ x, x < s.cur.dst.toNat ∨ s.cur.dst.toNat + s.cur.len.toNat ≤ x → m.read x = s.mem.read x))

/-- R262, R263 on any source, written or not: with the checks passed the block commands complete, every destination byte
is written and bytes outside it are unchanged. A block of written source bytes is transformed as always; the result of
one with bytes never written rests on free values (notes/assumptions/4.md). -/
def Obligations.BlockCommandsCompleteOnAnyData : Prop :=
  ∀ (s : State) (inverse : Bool), s.blockOperandsOk →
    ∃ m d, exec (blockCommand inverse) s = .next
        { s with mem := m, result := s.cur.len, err := 0x00, busy := false, done := true, draws := d } ∧
      (∀ x, s.cur.dst.toNat ≤ x → x < s.cur.dst.toNat + s.cur.len.toNat → m.read x ≠ none) ∧
      (∀ i b, i < s.cur.len.toNat / 16 → s.mem.bytesAt (s.cur.src.toNat + 16 * i) 16 = some b →
        m.bytesAt (s.cur.dst.toNat + 16 * i) 16 = some (blockFunction inverse s.rk (Block.ofBytes b)).toBytes) ∧
      (∀ x, x < s.cur.dst.toNat ∨ s.cur.dst.toNat + s.cur.len.toNat ≤ x → m.read x = s.mem.read x)

/-- R265: equal source blocks under equal round keys give equal destination blocks, whatever the offsets, the block
indices and everything else in the two states. -/
def Obligations.BlocksAreIndependent : Prop :=
  ∀ (s t s' t' : State) (inverse : Bool) (i j : Nat) (b : List Byte),
    s.blockOperandsOk → t.blockOperandsOk → s.rk = t.rk →
    i < s.cur.len.toNat / 16 → j < t.cur.len.toNat / 16 →
    s.mem.bytesAt (s.cur.src.toNat + 16 * i) 16 = some b → t.mem.bytesAt (t.cur.src.toNat + 16 * j) 16 = some b →
    exec (blockCommand inverse) s = .next s' → exec (blockCommand inverse) t = .next t' →
    s'.mem.bytesAt (s.cur.dst.toNat + 16 * i) 16 ≠ none ∧
    s'.mem.bytesAt (s.cur.dst.toNat + 16 * i) 16 = t'.mem.bytesAt (t.cur.dst.toNat + 16 * j) 16

/-- R316, R225: DECRYPT of what ENCRYPT wrote, under the same schedule, restores the source bytes at any destination the
checks admit, in place included. -/
def Obligations.DecryptRestoresEncryptedRegion : Prop :=
  ∀ (s t : State) (x : Word) (data : List Byte), s.blockOperandsOk →
    s.mem.bytesAt s.cur.src.toNat s.cur.len.toNat = some data → exec .encrypt s = .next t →
    State.blockOperandsOk { t with cur := { t.cur with src := t.cur.dst, dst := x } } →
    ∃ u, exec .decrypt { t with cur := { t.cur with src := t.cur.dst, dst := x } } = .next u ∧ u.err = 0x00 ∧
      u.mem.bytesAt x.toNat s.cur.len.toNat = some data

/-- R268: for every number of lanes and every sequence of lane moves that finishes the job, BUF ends as the command's
sequential order leaves it. (How a lane's work is cut into moves is the model's choice, notes/assumptions/24.md.) -/
def Obligations.LaneOrderDoesNotMatter : Prop :=
  ∀ (s t : State) (inverse : Bool) (nlanes : Nat) (moves : List LaneMove) (g : LaneArray),
    s.mem.wf = true → s.blockOperandsOk → s.written s.cur.src.toNat s.cur.len.toNat = true →
    laneRun { inverse := inverse, rk := s.rk, src := s.cur.src.toNat, dst := s.cur.dst.toNat } moves
      (LaneArray.start nlanes (s.cur.len.toNat / 16) s.mem s.draws) = some g →
    g.finished = true → exec (blockCommand inverse) s = .next t → g.mem = t.mem

/-- R270, R266, R9: with NLANES >= 1 lanes an accepted job takes finitely many lane moves and never gets stuck: a run of
lane moves on `n` blocks has at most `12 * n` of them, and while the job is not finished some move is enabled. (Twelve
moves a block are the model's choice, notes/assumptions/24.md.) The engine's own number of lanes is at least one. -/
def Obligations.LanesFinishTheJob : Prop :=
  1 ≤ Config.nLanes ∧
  ∀ (j : LaneJob) (nlanes n d : Nat) (m : Memory) (moves : List LaneMove) (g : LaneArray),
    1 ≤ nlanes → laneRun j moves (LaneArray.start nlanes n m d) = some g →
    moves.length ≤ 12 * n ∧ (g.finished = false → ∃ mv g', laneStep j g mv = some g')

/-! ## Errors and frames -/

/-- R336: "the state after a failed command is the state before it, except those fields": a command that completes with a
nonzero code changed ERR, BUSY and DONE only. (The model's own count of draws may have moved, notes/assumptions/3.md.) -/
def Obligations.FailedCommandChangesNothing : Prop :=
  ∀ (i : Instr) (s t : State), exec i s = .next t → t.err ≠ 0x00 →
    t = { s with err := t.err, busy := false, done := true, draws := t.draws }

/-- The frame of all seven commands outside BUF: what each leaves unchanged (R30, R42, R45, R50, R155 to R263 "Written"). -/
def Obligations.CommandFrame : Prop :=
  ∀ (i : Instr) (s t : State), exec i s = .next t →
    t.idValue = s.idValue ∧ t.bufSize = s.bufSize ∧ t.ie = s.ie ∧ t.ovr = s.ovr ∧ t.cmd = s.cmd ∧ t.src = s.src ∧
    t.dst = s.dst ∧ t.len = s.len ∧ t.cur = s.cur ∧ t.hazard = s.hazard ∧ t.host = s.host ∧ t.turns = s.turns ∧
    t.busy = false ∧ t.done = true ∧
    (i ≠ .expand → i ≠ .ksclr → t.rk = s.rk ∧ t.ksv = s.ksv) ∧
    (i = .nop ∨ i = .ksclr → t.result = s.result)

/-- The frame of all seven commands in BUF: NOP, EXPAND, UNPAD and KSCLR leave every byte as it was; ENCRYPT, DECRYPT and
PAD leave every byte outside the region they store to, computed with the commands' own expressions (R155, R262, R263). -/
def Obligations.BufferFrame : Prop :=
  ∀ (i : Instr) (s t : State) (a n x : Nat), exec i s = .next t → storedRegion i s = (a, n) →
    (x < a ∨ a + n ≤ x) → t.mem.read x = s.mem.read x

/-! ## The cipher -/

/-- R184, R183: the recurrence of the key expansion on the words `w[0..43]` of the schedule, and the ten round constants. -/
def Obligations.KeyExpansionRecurrence : Prop :=
  (List.range 10).map (fun i => rcon (i + 1)) =
    [⟨0x01, 0, 0, 0⟩, ⟨0x02, 0, 0, 0⟩, ⟨0x04, 0, 0, 0⟩, ⟨0x08, 0, 0, 0⟩, ⟨0x10, 0, 0, 0⟩,
     ⟨0x20, 0, 0, 0⟩, ⟨0x40, 0, 0, 0⟩, ⟨0x80, 0, 0, 0⟩, ⟨0x1B, 0, 0, 0⟩, ⟨0x36, 0, 0, 0⟩] ∧
  ∀ (k : Block) (i : Nat), i < 44 →
    scheduleWord (keyExpansion k) i =
      if i < 4 then k.column i
      else if i % 4 = 0 then
        (scheduleWord (keyExpansion k) (i - 4)).xor
          ((subWord (rotWord (scheduleWord (keyExpansion k) (i - 1)))).xor (rcon (i / 4)))
      else (scheduleWord (keyExpansion k) (i - 4)).xor (scheduleWord (keyExpansion k) (i - 1))

/-- R213: the table of the S-box is the affine map of the field inverse, bit by bit, every nonzero byte has an inverse, and
`InvS(S(b)) = b`. -/
def Obligations.SBoxMeetsItsDefinition : Prop :=
  (∀ b : Byte, b ≠ 0 → ∃ z : Byte, gmul b z = 0x01) ∧
  (∀ (b z : Byte) (i : Nat), (b = 0 ∧ z = 0) ∨ gmul b z = 0x01 → i < 8 →
    (sBox b).getLsbD i =
      (z.getLsbD i ^^ z.getLsbD ((i + 4) % 8) ^^ z.getLsbD ((i + 5) % 8) ^^ z.getLsbD ((i + 6) % 8)
        ^^ z.getLsbD ((i + 7) % 8) ^^ (0x63#8).getLsbD i)) ∧
  (∀ b : Byte, invSBox (sBox b) = b)

/-- R216, R217, R218, R219, R222: the round primitives byte by byte, as the rules index them. -/
def Obligations.RoundPrimitivesByteByByte : Prop :=
  (∀ (s : Block) (k : Nat), k < 16 →
    (subBytes s).byte k = sBox (s.byte k) ∧ (invSubBytes s).byte k = invSBox (s.byte k)) ∧
  (∀ (s k : Block) (i : Nat), i < 16 → (addRoundKey s k).byte i = s.byte i ^^^ k.byte i) ∧
  (∀ (s k : Block), addRoundKey (addRoundKey s k) k = s) ∧
  (∀ (s : Block) (r c : Nat), r < 4 → c < 4 →
    (shiftRows s).byte (r + 4 * c) = s.byte (r + 4 * ((c + r) % 4)) ∧
    (invShiftRows s).byte (r + 4 * ((c + r) % 4)) = s.byte (r + 4 * c)) ∧
  (∀ s : Block, invShiftRows (shiftRows s) = s)

/-- R221: `InvMixColumns(MixColumns(s)) = s` for every state. -/
def Obligations.InvMixColumnsUndoesMixColumns : Prop :=
  ∀ s : Block, invMixColumns (mixColumns s) = s

/-- R225: the inverse law, for every block and every eleven-key schedule, in both directions. -/
def Obligations.InverseCipherUndoesCipher : Prop :=
  ∀ (b : Block) (rk : RoundKeys), invCipher (cipher b rk) rk = b ∧ cipher (invCipher b rk) rk = b

/-- The examples of R186, R223 and R224: the last round key of the zero key, and the block of FIPS-197 C.1 both ways. -/
def Obligations.PublishedVectors : Prop :=
  (keyExpansion Block.zero)[10].toBytes =
    [0xb4, 0xef, 0x5b, 0xcb, 0x3e, 0x92, 0xe2, 0x11, 0x23, 0xe9, 0x51, 0xcf, 0x6f, 0x8f, 0x18, 0x8e] ∧
  ∀ key plain enc : Block,
    key.toBytes = [0x00, 0x01, 0x02, 0x03, 0x04, 0x05, 0x06, 0x07, 0x08, 0x09, 0x0a, 0x0b, 0x0c, 0x0d, 0x0e, 0x0f] →
    plain.toBytes = [0x00, 0x11, 0x22, 0x33, 0x44, 0x55, 0x66, 0x77, 0x88, 0x99, 0xaa, 0xbb, 0xcc, 0xdd, 0xee, 0xff] →
    enc.toBytes = [0x69, 0xc4, 0xe0, 0xd8, 0x6a, 0x7b, 0x04, 0x30, 0xd8, 0xcd, 0xb7, 0x80, 0x70, 0xb4, 0xc5, 0x5a] →
    cipher plain (keyExpansion key) = enc ∧ invCipher enc (keyExpansion key) = plain

/-! ## The ports -/

/-- R292: a register write by offset, over every word-aligned offset of the register space. CTRL is R37, with the soft
reset as Obligations.WarmResetClearsRegisters has it. -/
def Obligations.RegisterWritesByOffset : Prop :=
  ∀ (s : State) (o v : Word), o.toNat % 4 = 0 → o.toNat < 0x1000 →
    s.afterWrite (regWrite o v) =
      if o = 0x004 then (if v.getLsbD 1 then s.warmReset else { s with ie := v.getLsbD 0 })
      else if o = 0x008 then
        { s with done := if v.getLsbD 1 then false else s.done, ovr := if v.getLsbD 3 then false else s.ovr }
      else if o = 0x010 then
        (if s.busy then { s with ovr := true }
         else { s with
          cmd := v
          cur := { word := v, opc := v.extractLsb' 0 8, src := s.src, dst := s.dst, len := s.len }
          done := false
          busy := true })
      else if o = 0x014 then { s with src := v }
      else if o = 0x018 then { s with dst := v }
      else if o = 0x01C then { s with len := v }
      else s

/-- R291, R33: a register read by offset, over every word-aligned offset of the register space, busy or not, with no side
effect. The round-key window is the word of R45, except while an EXPAND or KSCLR executes. -/
def Obligations.RegisterReadsByOffset : Prop :=
  ∀ (s : State) (o : Word), o.toNat % 4 = 0 → o.toNat < 0x1000 →
    (s.busy = true ∧ (s.cur.word = 0x00000001 ∨ s.cur.word = 0x00000006) → ¬ (0x100 ≤ o.toNat ∧ o.toNat < 0x1B0)) →
    s.afterRead (regRead o) = s ∧
    s.readValue (regRead o) =
      if o = 0x000 then s.idValue
      else if o = 0x004 then s.ctrlWord
      else if o = 0x008 then s.statusWord
      else if o = 0x00C then s.err.setWidth 32
      else if o = 0x010 then s.cmd
      else if o = 0x014 then s.src
      else if o = 0x018 then s.dst
      else if o = 0x01C then s.len
      else if o = 0x020 then s.result
      else if o = 0x024 then 0x0000000A
      else if o = 0x028 then BitVec.ofNat 32 s.bufSize
      else if 0x100 ≤ o.toNat ∧ o.toNat < 0x1B0 then windowWord s.rk ((o.toNat - 0x100) / 4)
      else 0x00000000

/-- R45: the window word at `0x100 + 16*j + 4*m` is the little-endian word of bytes `4m..4m+3` of round key `j`. -/
def Obligations.WindowIsLittleEndian : Prop :=
  ∀ (s : State) (j m : Nat) (hj : j < 11), m < 4 →
    ¬ (s.busy = true ∧ (s.cur.word = 0x00000001 ∨ s.cur.word = 0x00000006)) →
    s.readValue (regRead (BitVec.ofNat 32 (0x100 + 16 * j + 4 * m))) =
      (s.rk[j].byte (4 * m)).setWidth 32 ||| ((s.rk[j].byte (4 * m + 1)).setWidth 32 <<< 8)
        ||| ((s.rk[j].byte (4 * m + 2)).setWidth 32 <<< 16) ||| ((s.rk[j].byte (4 * m + 3)).setWidth 32 <<< 24)

/-- R35, R37: the fields of STATUS and CTRL as read, bit by bit, the reserved ones and SRST reading 0. -/
def Obligations.StatusAndCtrlBits : Prop :=
  ∀ (s : State) (k : Nat), k < 32 →
    s.statusWord.getLsbD k =
      (if k = 0 then s.busy else if k = 1 then s.done else if k = 2 then s.ksv else if k = 3 then s.ovr else false) ∧
    s.ctrlWord.getLsbD k = (if k = 0 then s.ie else false)

/-- R52, R341: IRQ = IE AND DONE in every state; every completion, of a command or of an illegal word, error or not,
leaves IRQ = IE (R304); IRQ drops when the host writes 1 to STATUS bit 1 or 0 to IE, when a command is accepted (R300), and
on each reset (R371, R372). -/
def Obligations.InterruptIsEnableAndDone : Prop :=
  ∀ s : State, s.irq = (s.ie && s.done) ∧
    (∀ (i : Instr) (t : State), exec i s = .next t → t.irq = s.ie) ∧ s.illegal.irq = s.ie ∧
    (∀ v : Word, v.getLsbD 1 = true → (s.afterWrite (regWrite 0x008 v)).irq = false) ∧
    (∀ v : Word, v.getLsbD 1 = true ∨ v.getLsbD 0 = false → (s.afterWrite (regWrite 0x004 v)).irq = false) ∧
    (∀ w, s.busy = false → (s.afterWrite (regWrite 0x010 w)).irq = false) ∧
    s.warmReset.irq = false ∧ s.powerOnReset.irq = false

/-- R293, R311, R128: on the host's move a register transaction, of a transaction statement or of a `brs`, of another width
or a misaligned offset is refused, and one within the register space is performed. (That an offset past 0xFFF is refused is
the model's reading of R33, notes/assumptions/13.md; that a refusal covers a `brs` too, notes/assumptions/15.md.) -/
def Obligations.MalformedRegisterTransactionsRefused : Prop :=
  ∀ (s : State) (t : Txn), s.nextTurn = .host → s.statement.bind Stmt.txn? = some t → t.space = .reg →
    ((t.width ≠ 32 ∨ t.offset.toNat % 4 ≠ 0 ∨ 0x1000 ≤ t.offset.toNat) → ∃ r, step s = .refused r) ∧
    (t.width = 32 → t.offset.toNat % 4 = 0 → t.offset.toNat < 0x1000 → ∃ s', step s = .next s')

/-- R296: on the host's move a buffer transaction past BUF_SIZE, a misaligned word or another width is refused, and every
other one is performed. -/
def Obligations.MalformedBufferTransactionsRefused : Prop :=
  ∀ (s : State) (t : Txn), s.nextTurn = .host → s.statement = some (.txn t) → t.space = .buf →
    ((t.width = 8 ∧ s.bufSize ≤ t.offset.toNat) ∨ (t.width = 32 ∧ s.bufSize < t.offset.toNat + 4) ∨
      (t.width = 32 ∧ t.offset.toNat % 4 ≠ 0) ∨ (t.width ≠ 8 ∧ t.width ≠ 32) → ∃ r, step s = .refused r) ∧
    ((t.width = 8 ∧ t.offset.toNat < s.bufSize) ∨
      (t.width = 32 ∧ t.offset.toNat % 4 = 0 ∧ t.offset.toNat + 4 ≤ s.bufSize) → ∃ s', step s = .next s')

/-- R294, R295, R81, R83: an idle word write stores the little-endian bytes, so a word read returns the word and a byte
read each byte; a byte write stores `v[7:0]`; every other byte and everything but BUF is unchanged. Conversely, however
the bytes came to be written, an idle byte read returns the byte and a word read the little-endian word of the four bytes,
with no side effect. -/
def Obligations.BufferWordsAreTheirBytes : Prop :=
  ∀ (s : State) (a v : Word), s.busy = false →
    (s.hazard = false → a.toNat + 4 ≤ 2 ^ 32 →
      ∃ m, s.afterWrite (bufWrite 32 a v) = { s with mem := m } ∧
        State.readValue { s with mem := m } (bufRead 32 a) = v ∧
        (∀ k, k < 4 → State.readValue { s with mem := m } (bufRead 8 (a + BitVec.ofNat 32 k))
          = (v.extractLsb' (8 * k) 8).setWidth 32) ∧
        ∀ x, x < a.toNat ∨ a.toNat + 4 ≤ x → m.read x = s.mem.read x) ∧
    (s.hazard = false →
      ∃ m, s.afterWrite (bufWrite 8 a v) = { s with mem := m } ∧
        State.readValue { s with mem := m } (bufRead 8 a) = (v.extractLsb' 0 8).setWidth 32 ∧
        ∀ x, x ≠ a.toNat → m.read x = s.mem.read x) ∧
    (∀ b, s.mem.read a.toNat = some b →
      s.readValue (bufRead 8 a) = b.setWidth 32 ∧ s.afterRead (bufRead 8 a) = s) ∧
    (∀ b0 b1 b2 b3, s.mem.bytesAt a.toNat 4 = some [b0, b1, b2, b3] →
      s.readValue (bufRead 32 a) =
        b0.setWidth 32 ||| (b1.setWidth 32 <<< 8) ||| (b2.setWidth 32 <<< 16) ||| (b3.setWidth 32 <<< 24) ∧
      s.afterRead (bufRead 32 a) = s)

/-- R48, R294 in the model's form (notes/assumptions/3.md and 4.md): a byte read of a byte never written returns the next
free value, and the next read of it the one after, so no claim can rest on two reads of it agreeing. In an idle word read
each byte that has been written reads as it stands and each byte never written takes the next free value in turn; the
read leaves everything but the model's count of free values. -/
def Obligations.UninitialisedReadsAreFresh : Prop :=
  ∀ (s : State) (a : Word) (unwritten : Nat → Nat),
    (∀ k, unwritten k = ((List.range k).filter fun j => (s.mem.read (a.toNat + j)).isNone).length) →
    (s.mem.read a.toNat = none →
      s.readValue (bufRead 8 a) = (Config.draw s.draws).setWidth 32 ∧
      State.readValue (s.afterRead (bufRead 8 a)) (bufRead 8 a) = (Config.draw (s.draws + 1)).setWidth 32) ∧
    (s.busy = false →
      (∀ k, k < 4 →
        (∀ b, s.mem.read (a.toNat + k) = some b → (s.readValue (bufRead 32 a)).extractLsb' (8 * k) 8 = b) ∧
        (s.mem.read (a.toNat + k) = none →
          (s.readValue (bufRead 32 a)).extractLsb' (8 * k) 8 = Config.draw (s.draws + unwritten k))) ∧
      s.afterRead (bufRead 32 a) = { s with draws := s.draws + unwritten 4 })

/-- R381 in the model's form (notes/assumptions/12.md): while BUSY = 1 every byte of a byte or word read of the buffer is
a free value of its own whatever BUF holds, and while an EXPAND or KSCLR executes so is every byte of a round-key window
word. The reads leave everything but the model's count of free values. -/
def Obligations.ReadsWhileBusyAreOpen : Prop :=
  ∀ (s : State) (a : Word), s.busy = true →
    (s.readValue (bufRead 8 a) = (Config.draw s.draws).setWidth 32 ∧
      s.afterRead (bufRead 8 a) = { s with draws := s.draws + 1 }) ∧
    ((∀ k, k < 4 → (s.readValue (bufRead 32 a)).extractLsb' (8 * k) 8 = Config.draw (s.draws + k)) ∧
      s.afterRead (bufRead 32 a) = { s with draws := s.draws + 4 }) ∧
    (∀ o : Word, (s.cur.word = 0x00000001 ∨ s.cur.word = 0x00000006) → o.toNat % 4 = 0 → 0x100 ≤ o.toNat →
      o.toNat < 0x1B0 →
      (∀ k, k < 4 → (s.readValue (regRead o)).extractLsb' (8 * k) 8 = Config.draw (s.draws + k)) ∧
      s.afterRead (regRead o) = { s with draws := s.draws + 4 })

/-! ## Hazards, resets and the whole machine -/

/-- R53, R380: HAZARD rises exactly when the host performs a buffer write while BUSY = 1, and no step clears it. -/
def Obligations.HazardRisesOnBusyBufferWriteOnly : Prop :=
  ∀ s s' : State, step s = .next s' →
    (s'.hazard = true ↔ s.hazard = true ∨ (s.busy = true ∧ s.moveTxn.any Txn.writesBuf = true))

/-- R380 in the model's form (notes/assumptions/10.md): with HAZARD set a command still completes, and what it left open
is free: BUF holds no known byte, ERR and the four bytes of RESULT are free values of their own, and so are KSV and every
byte of RK after EXPAND and KSCLR; all other fields are as the command's meaning leaves them. -/
def Obligations.HazardLeavesResultOpen : Prop :=
  ∀ (s t : State) (i : Instr), s.nextTurn = .engine → s.busy = true → s.hazard = true → decode s.cur.word = .ok i →
    exec i { s with turns := s.turns.tail } = .next t →
    ∃ r k v, step s = .next
        { t with mem := [], err := Config.draw t.draws, result := r, rk := k, ksv := v, draws := t.draws + 182 } ∧
      (∀ n, n < 4 → r.extractLsb' (8 * n) 8 = Config.draw (t.draws + 1 + n)) ∧
      (i = .expand ∨ i = .ksclr →
        v = (Config.draw (t.draws + 5)).getLsbD 0 ∧
        ∀ (j : Nat) (hj : j < 11) (n : Nat), n < 16 → k[j].byte n = Config.draw (t.draws + 6 + 16 * j + n)) ∧
      (i ≠ .expand → i ≠ .ksclr → k = t.rk ∧ v = t.ksv)

/-- R54, R374: the state after power-on reset, its constants the parameters of the implementation. (The fields `draws`,
`host` and `turns` are the model's, notes/assumptions/3.md, 6.md, 7.md, and the statement says nothing of them.) -/
def Obligations.ResetValues : Prop :=
  State.reset.idValue = Config.idValue ∧ State.reset.bufSize = Config.bufSize ∧
  State.reset.readValue (regRead 0x004) = 0 ∧ State.reset.readValue (regRead 0x008) = 0 ∧
  State.reset.err = 0 ∧ State.reset.cmd = 0 ∧ State.reset.src = 0 ∧ State.reset.dst = 0 ∧ State.reset.len = 0 ∧
  State.reset.result = 0 ∧ State.reset.readValue (regRead 0x024) = 10 ∧
  (∀ (j : Nat) (hj : j < 11), State.reset.rk[j] = Block.zero) ∧
  State.reset.cur = { word := 0, opc := 0, src := 0, dst := 0, len := 0 } ∧ State.reset.irq = false ∧
  State.reset.hazard = false ∧ ∀ a, State.reset.mem.read a = none

/-- R371, R373: soft and hard reset put every register, RK and CUR at its reset value whatever the state; BUF keeps every
byte when no command executes; HAZARD stays. -/
def Obligations.WarmResetClearsRegisters : Prop :=
  ∀ s : State, ∃ m d,
    s.warmReset = { State.resetWith s.idValue s.bufSize with
      mem := m, hazard := s.hazard, draws := d, host := s.host, turns := s.turns } ∧
    (s.busy = false → m = s.mem)

/-- R373: a reset while a command executes abandons it: DONE stays clear and ERR holds no code of it. By `CUR.opc`, every
byte that an ENCRYPT, DECRYPT or PAD could not have written stays, and the ones it could have written are free values,
one for each; any other command leaves all of BUF. That such a byte is drawn once and kept as written from then on is the
model's reading of "each a draw" (DEDUCED, notes/assumptions/11.md). (The premise HAZARD = 0 is R380's.) -/
def Obligations.AbandonedCommandBytes : Prop :=
  ∀ (s : State) (x : Nat), s.busy = true → s.hazard = false →
    (s.warmReset.busy = false ∧ s.warmReset.done = false ∧ s.warmReset.err = 0x00) ∧
    (∀ lo hi, (s.cur.opc = 0x02 ∨ s.cur.opc = 0x03) → lo = s.cur.dst.toNat →
      hi = min (s.cur.dst.toNat + s.cur.len.toNat) s.bufSize →
      (lo ≤ x ∧ x < hi → s.warmReset.mem.read x = some (Config.draw (s.draws + (x - lo)))) ∧
      (¬ (lo ≤ x ∧ x < hi) → s.warmReset.mem.read x = s.mem.read x)) ∧
    (∀ lo hi, s.cur.opc = 0x04 → lo = s.cur.src.toNat + s.cur.len.toNat →
      hi = min (s.cur.src.toNat + s.cur.len.toNat + (16 - s.cur.len.toNat % 16)) s.bufSize →
      (lo ≤ x ∧ x < hi → s.warmReset.mem.read x = some (Config.draw (s.draws + (x - lo)))) ∧
      (¬ (lo ≤ x ∧ x < hi) → s.warmReset.mem.read x = s.mem.read x)) ∧
    (s.cur.opc ≠ 0x02 → s.cur.opc ≠ 0x03 → s.cur.opc ≠ 0x04 → s.warmReset.mem.read x = s.mem.read x)

/-- R370, R371, R372: each of the three resets is one step. The soft reset is the host's CTRL write with bit 1 set; the
hard reset and power-on are moves of the model's queue (notes/assumptions/6.md and 16.md). Power-on does what the others
do and leaves every byte of BUF uninitialised. -/
def Obligations.ResetSteps : Prop :=
  ∀ s : State,
    (∀ v : Word, s.nextTurn = .host → s.statement = some (.txn (regWrite 0x004 v)) → v.getLsbD 1 = true →
      step s = .next
        { s.warmReset with turns := s.turns.tail, host := { s.host with hpc := s.host.hpc + 1 } }) ∧
    (s.nextTurn = .hardReset → step s = .next { s.warmReset with turns := s.turns.tail }) ∧
    (s.nextTurn = .powerOn → ∃ d, step s = .next { s.warmReset with mem := [], draws := d, turns := s.turns.tail })

/-- R35: OVR "cleared only by the host writing 1 to this bit or by reset". -/
def Obligations.OverrunClearedOnlyByHostOrReset : Prop :=
  ∀ s s' : State, step s = .next s' → s.ovr = true → s'.ovr = false →
    s.resetsNext = true ∨ s.moveTxn.any (fun t => t.writesReg 0x008 && t.data.getLsbD 3) = true

/-- R189: RK is constant except over the completion of an EXPAND or KSCLR and over resets. -/
def Obligations.ScheduleIsImmutable : Prop :=
  ∀ s s' : State, step s = .next s' → s.resetsNext = false →
    ¬ (s.commandNext = true ∧ (decode s.cur.word = .ok .expand ∨ decode s.cur.word = .ok .ksclr)) → s'.rk = s.rk

/-- R97, R384: while a command executes, no host move but a soft reset disturbs it: the latch, CMD, BUSY, the schedule and
the last results stay. -/
def Obligations.ExecutingCommandIsUndisturbed : Prop :=
  ∀ s s' : State, step s = .next s' → s.busy = true → s.nextTurn = .host → s.resetsNext = false →
    s'.busy = true ∧ s'.cur = s.cur ∧ s'.cmd = s.cmd ∧ s'.rk = s.rk ∧ s'.ksv = s.ksv ∧ s'.err = s.err ∧
    s'.result = s.result ∧ (s'.hazard = false → s'.mem = s.mem)

/-- R310, R311, R291, R292, R294, R295: the whole next state of the host's move. A write statement has the effect of its
transaction (`afterWrite`), a read statement leaves the state as the read does (`afterRead`) and gives the host the value
read, and each goes on with the next statement; `brs` reads its register once and branches on the masked value. Which of
them are performed Obligations.MalformedRegisterTransactionsRefused and Obligations.MalformedBufferTransactionsRefused
say. At `halt` or past the last statement the step answers a next state and the host does nothing more. Around this the
step takes the move from the model's queue (notes/assumptions/6.md), and the host's record of what its reads returned is
the model's (notes/assumptions/7.md). -/
def Obligations.HostStatements : Prop :=
  ∀ s u : State, s.nextTurn = .host → u = { s with turns := s.turns.tail } →
    (∀ t s', s.statement = some (.txn t) → t.dir = .write → step s = .next s' →
      s' = { u.afterWrite t with host := { s.host with hpc := s.host.hpc + 1 } }) ∧
    (∀ t s', s.statement = some (.txn t) → t.dir = .read → step s = .next s' →
      s' = { u.afterRead t with
        host := { s.host with hpc := s.host.hpc + 1, reads := s.readValue t :: s.host.reads } }) ∧
    (∀ o m l s', s.statement = some (.brs o m l) → step s = .next s' →
      s' = { u.afterRead (regRead o) with
        host := { s.host with
          hpc := if s.readValue (regRead o) &&& m ≠ 0 then l else s.host.hpc + 1
          reads := s.readValue (regRead o) :: s.host.reads } }) ∧
    (s.statement = some .halt ∨ s.statement = none → step s = .next u)

/-- The buffer invariant: BUF in canonical form and within BUF_SIZE, a legal BUF_SIZE, and nothing known of BUF after a
hazard, kept by every step from every state (R9, R47, R80; the last clause is the model's, notes/assumptions/10.md). -/
def Obligations.BufferInvariantKept : Prop :=
  ∀ s s' : State, s.BufferInv → step s = .next s' → s'.BufferInv

/-- The life-cycle invariant: never BUSY and DONE together, CMD equal to the latched word and the latched code its low
byte, kept by every step from every state (R38, R50, R300, R304). -/
def Obligations.LifeCycleInvariantKept : Prop :=
  ∀ s s' : State, s.LifeCycleInv → step s = .next s' → s'.LifeCycleInv

/-- R188: with KSV = 1 all eleven round keys are the expansion of one key, so "no block is ever transformed with a partly
computed schedule"; with KSV = 0 they are zero. Kept by every step from every state, HAZARD = 0 as R380 asks. -/
def Obligations.ScheduleInvariantKept : Prop :=
  ∀ s s' : State, s.ScheduleInv → step s = .next s' → s'.ScheduleInv

/-- R331, R332: ERR never holds a code of 0x08 or above, kept by every step from every state, HAZARD = 0 as R380 asks. -/
def Obligations.ErrorInvariantKept : Prop :=
  ∀ s s' : State, s.ErrorInv → step s = .next s' → s'.ErrorInv

/-- The four invariants hold right after reset. -/
def Obligations.InvariantsHoldAtReset : Prop :=
  State.reset.BufferInv ∧ State.reset.LifeCycleInv ∧ State.reset.ScheduleInv ∧ State.reset.ErrorInv
end

