-- ==== Sys2Proof/Laws/Cipher.lean ====
section
/-! SUPPORT. Byte strings, blocks and words: how the conversions fit together, and how a region's blocks are the
transformed blocks of its source. -/

namespace Sys2Proof.Machine

@[simp] theorem Quad.length_toBytes (q : Quad) : q.toBytes.length = 4 := rfl

@[simp] theorem Block.length_toBytes (b : Block) : b.toBytes.length = 16 := rfl

/-- A block is the block of its bytes. -/
@[simp] theorem Block.ofBytes_toBytes (b : Block) : Block.ofBytes b.toBytes = b := rfl

/-- Sixteen bytes are the bytes of their block. -/
theorem Block.toBytes_ofBytes (l : List Byte) (h : l.length = 16) : (Block.ofBytes l).toBytes = l := by
  match l, h with
  | [_, _, _, _, _, _, _, _, _, _, _, _, _, _, _, _], _ => rfl

/-- Four bytes are the bytes of their little-endian word. -/
theorem leBytes_leWord (b0 b1 b2 b3 : Byte) : leBytes (leWord b0 b1 b2 b3) = [b0, b1, b2, b3] := by
  simp only [leBytes, leWord, List.cons.injEq, and_true]
  refine ⟨?_, ?_, ?_, ?_⟩ <;>
    · apply BitVec.eq_of_getLsbD_eq
      intro i hi
      simp only [BitVec.getLsbD_extractLsb', BitVec.getLsbD_append]
      interval_cases i <;> simp

/-- A word is the little-endian word of its bytes. -/
theorem leWordOf_leBytes (v : Word) : leWordOf (leBytes v) = v := by
  apply BitVec.eq_of_getLsbD_eq
  intro i hi
  simp only [leWordOf, leBytes, leWord, List.getD_cons_zero, List.getD_cons_succ, BitVec.getLsbD_append,
    BitVec.getLsbD_extractLsb']
  interval_cases i <;> simp

/-- The word of a single byte (44_host_interface.md R294). -/
theorem leWordOf_single (b : Byte) : leWordOf [b] = b.setWidth 32 := by
  revert b; decide +kernel

@[simp] theorem length_transformBlocks (f : Block → Block) (n : Nat) (bs : List Byte) :
    (transformBlocks f n bs).length = 16 * n := by
  induction n generalizing bs with
  | zero => rfl
  | succ n ih => simp only [transformBlocks, List.length_append, Block.length_toBytes, ih]; omega

/-- Block `i` of a transformed byte string is the transformed block `i` (43_block_commands.md R265). -/
theorem transformBlocks_block (f : Block → Block) : ∀ (n i : Nat) (bs : List Byte), i < n →
    ((transformBlocks f n bs).drop (16 * i)).take 16 = (f (Block.ofBytes ((bs.drop (16 * i)).take 16))).toBytes := by
  intro n
  induction n with
  | zero => intro i bs h; omega
  | succ n ih =>
    intro i bs h
    cases i with
    | zero =>
      simp only [transformBlocks, Nat.mul_zero, List.drop_zero]
      rw [List.take_append_of_le_length (by simp), List.take_of_length_le (by simp)]
    | succ i =>
      have hd : 16 * (i + 1) = 16 + 16 * i := by omega
      simp only [transformBlocks]
      have hx : ∀ l : List Byte, ((f (Block.ofBytes (bs.take 16))).toBytes ++ l).drop 16 = l := fun _ => rfl
      rw [hd, ← List.drop_drop, hx, ih i _ (by omega), List.drop_drop]

/-- Round key `j` of an expanded schedule. -/
theorem keyExpansion_getElem (k : Block) (j : Nat) (h : j < 11) : (keyExpansion k)[j] = expandedKey k j := by
  simp [keyExpansion]

theorem roundKeyAt_eq (rk : RoundKeys) (j : Nat) (h : j < 11) : roundKeyAt rk j = rk[j] := by
  simp [roundKeyAt, List.getD_eq_getElem?_getD, h]

end Sys2Proof.Machine
end

