-- ==== Sys2Proof/Laws/Memory.lean ====
section
/-! SUPPORT. What the buffer-memory operations do: a read after a write, the canonical form, reading strings of
bytes, and that a memory in canonical form is determined by its reads. -/

namespace Sys2Proof.Machine

@[simp] theorem Memory.read_nil (a : Nat) : Memory.read [] a = none := rfl

/-- A read after a write: the byte written at its address, everything else as before. -/
theorem Memory.read_write (m : Memory) (a x : Nat) (b : Byte) :
    (m.write a b).read x = if x = a then some b else m.read x := by
  induction m with
  | nil => simp only [Memory.write, Memory.read, eq_comm (a := a)]
  | cons c m ih =>
    unfold Memory.write
    split
    · simp only [Memory.read, eq_comm (a := a)]
    · split
      · next h1 h2 =>
        subst h2
        by_cases h : x = c.1
        · simp [Memory.read, h]
        · simp [Memory.read, h, eq_comm]
      · next h1 h2 =>
        simp only [Memory.read, ih]
        by_cases h : x = a
        · subst h
          simp [show ¬ c.1 = x by omega]
        · simp [h]

@[simp] theorem Memory.read_write_same (m : Memory) (a : Nat) (b : Byte) : (m.write a b).read a = some b := by
  simp [Memory.read_write]

theorem Memory.read_write_other (m : Memory) (a x : Nat) (b : Byte) (h : x ≠ a) :
    (m.write a b).read x = m.read x := by
  simp [Memory.read_write, h]

/-- A read after a string of bytes is written. -/
theorem Memory.read_writeBytes (bs : List Byte) : ∀ (m : Memory) (a x : Nat),
    (m.writeBytes a bs).read x = if a ≤ x ∧ x < a + bs.length then bs[x - a]? else m.read x := by
  induction bs with
  | nil =>
    intro m a x
    simp [Memory.writeBytes]
  | cons b bs ih =>
    intro m a x
    simp only [Memory.writeBytes, ih, Memory.read_write, List.length_cons]
    by_cases h0 : x = a
    · subst h0
      simp
    · by_cases h1 : a + 1 ≤ x ∧ x < a + 1 + bs.length
      · have h2 : a ≤ x ∧ x < a + (bs.length + 1) := by omega
        have h3 : x - a = (x - (a + 1)) + 1 := by omega
        simp [h1, h2, h3]
      · have h2 : ¬ (a ≤ x ∧ x < a + (bs.length + 1)) := by omega
        rw [if_neg h1, if_neg h2, if_neg h0]

/-- The first address of a nonempty memory. -/
theorem Memory.wf_cons (c : Host.Cell) (m : Memory) :
    Memory.wf (c :: m) = true ↔ (∀ e ∈ m, c.1 < e.1) ∧ Memory.wf m = true := by
  induction m generalizing c with
  | nil => simp [Memory.wf]
  | cons e m ih =>
    simp only [Memory.wf, Bool.and_eq_true, decide_eq_true_eq, List.mem_cons, forall_eq_or_imp]
    constructor
    · rintro ⟨h1, h2⟩
      exact ⟨⟨h1, fun x hx => lt_trans h1 (((ih e).1 h2).1 x hx)⟩, h2⟩
    · rintro ⟨⟨h1, _⟩, h2⟩
      exact ⟨h1, h2⟩

/-- Every cell of a memory after a write is the written one or an old one. -/
theorem Memory.mem_write (m : Memory) (a : Nat) (b : Byte) (e : Host.Cell) (h : e ∈ m.write a b) :
    e = (a, b) ∨ e ∈ m := by
  induction m with
  | nil => simpa [Memory.write] using h
  | cons c m ih =>
    unfold Memory.write at h
    split at h
    · simpa using h
    · split at h
      · rcases List.mem_cons.1 h with h | h
        · exact .inl h
        · exact .inr (List.mem_cons_of_mem _ h)
      · rcases List.mem_cons.1 h with h | h
        · exact .inr (h ▸ List.mem_cons_self)
        · exact (ih h).imp id (List.mem_cons_of_mem _)

/-- A write keeps the canonical form. -/
theorem Memory.wf_write (m : Memory) (a : Nat) (b : Byte) (h : m.wf = true) : (m.write a b).wf = true := by
  induction m with
  | nil => rfl
  | cons c m ih =>
    obtain ⟨hc, hm⟩ := (Memory.wf_cons c m).1 h
    unfold Memory.write
    split
    · next h1 =>
      refine (Memory.wf_cons _ _).2 ⟨?_, h⟩
      intro e he
      rcases List.mem_cons.1 he with rfl | he
      · exact h1
      · exact lt_trans h1 (hc e he)
    · split
      · next h1 h2 => exact (Memory.wf_cons _ _).2 ⟨fun e he => h2 ▸ hc e he, hm⟩
      · next h1 h2 =>
        refine (Memory.wf_cons _ _).2 ⟨?_, ih hm⟩
        intro e he
        rcases Memory.mem_write m a b e he with rfl | he
        · show c.1 < a
          omega
        · exact hc e he

/-- Writing a string of bytes keeps the canonical form. -/
theorem Memory.wf_writeBytes (bs : List Byte) : ∀ (m : Memory) (a : Nat), m.wf = true → (m.writeBytes a bs).wf = true := by
  induction bs with
  | nil => intro m a h; exact h
  | cons b bs ih => intro m a h; exact ih _ _ (Memory.wf_write m a b h)

/-- Every cell of a memory after a string is written lies in the string's region or was there before. -/
theorem Memory.mem_writeBytes (bs : List Byte) : ∀ (m : Memory) (a : Nat) (e : Host.Cell), e ∈ m.writeBytes a bs →
    (a ≤ e.1 ∧ e.1 < a + bs.length) ∨ e ∈ m := by
  induction bs with
  | nil => intro m a e h; exact .inr h
  | cons b bs ih =>
    intro m a e h
    rcases ih _ _ e h with h | h
    · left; simp only [List.length_cons]; omega
    · rcases Memory.mem_write m a b e h with rfl | h
      · left; simp
      · exact .inr h

/-- A memory in canonical form holds a byte at an address exactly where its list does. -/
theorem Memory.read_eq_some (m : Memory) (h : m.wf = true) (a : Nat) (b : Byte) : m.read a = some b ↔ (a, b) ∈ m := by
  induction m with
  | nil => simp
  | cons c m ih =>
    obtain ⟨hc, hm⟩ := (Memory.wf_cons c m).1 h
    obtain ⟨x, y⟩ := c
    simp only [Memory.read, List.mem_cons, Prod.mk.injEq]
    by_cases hx : x = a
    · subst hx
      simp only [if_true, Option.some.injEq]
      constructor
      · rintro rfl; simp
      · rintro (⟨-, h⟩ | h)
        · exact h.symm
        · exact absurd (hc _ h) (lt_irrefl _)
    · have : ¬ a = x := fun e => hx e.symm
      simp [hx, ih hm, this]

/-- Two memories in canonical form with the same bytes are equal. -/
theorem Memory.ext_read : ∀ (m n : Memory), m.wf = true → n.wf = true → (∀ a, m.read a = n.read a) → m = n := by
  intro m
  induction m with
  | nil =>
    intro n _ hn h
    cases n with
    | nil => rfl
    | cons c n => exact absurd (h c.1) (by simp [Memory.read])
  | cons c m ih =>
    intro n hm hn h
    cases n with
    | nil => exact absurd (h c.1) (by simp [Memory.read])
    | cons d n =>
      obtain ⟨hc, hm'⟩ := (Memory.wf_cons c m).1 hm
      obtain ⟨hd, hn'⟩ := (Memory.wf_cons d n).1 hn
      have h1 : (c.1, c.2) ∈ d :: n := (Memory.read_eq_some _ hn _ _).1 ((h c.1).symm.trans (by simp [Memory.read]))
      have h2 : (d.1, d.2) ∈ c :: m := (Memory.read_eq_some _ hm _ _).1 ((h d.1).trans (by simp [Memory.read]))
      have hcd : c = d := by
        rcases List.mem_cons.1 h1 with e | e
        · exact e
        · rcases List.mem_cons.1 h2 with e' | e'
          · exact e'.symm
          · exact absurd (lt_trans (hd _ e) (hc _ e')) (lt_irrefl _)
      subst hcd
      congr 1
      refine ih n hm' hn' fun a => ?_
      have ha := h a
      simp only [Memory.read] at ha
      by_cases hca : c.1 = a
      · have hno : ∀ k : Memory, (∀ e ∈ k, c.1 < e.1) → k.wf = true → k.read a = none := by
          intro k hk hw
          cases hr : k.read a with
          | none => rfl
          | some b => exact absurd (hk _ ((Memory.read_eq_some k hw a b).1 hr)) (by simp [hca])
        rw [hno m hc hm', hno n hd hn']
      · simpa [hca] using ha

/-- The number of bytes a read of `n` bytes returns. -/
@[simp] theorem Memory.length_readBytes (m : Memory) : ∀ (n a d : Nat), (m.readBytes a n d).1.length = n := by
  intro n
  induction n with
  | zero => intro a d; rfl
  | succ n ih =>
    intro a d
    unfold Memory.readBytes
    split <;> simp [ih]

/-- Where every byte is open a read draws one free value a byte, in order. -/
theorem drawBytes_eq (n d : Nat) : drawBytes n d = ((List.range' d n).map Config.draw, d + n) := by
  have h : ∀ n a d, Memory.readBytes [] a n d = ((List.range' d n).map Config.draw, d + n) := by
    intro n
    induction n with
    | zero => intro a d; rfl
    | succ n ih =>
      intro a d
      simp only [Memory.readBytes, Memory.read_nil, ih, List.range'_succ, List.map_cons]
      rw [Nat.add_right_comm]; rfl
  exact h n 0 d

/-- The `k`-th byte drawn. -/
theorem drawBytes_getElem? (n d k : Nat) (h : k < n) : (drawBytes n d).1[k]? = some (Config.draw (d + k)) := by
  simp [drawBytes_eq, h]

@[simp] theorem length_drawBytes (n d : Nat) : (drawBytes n d).1.length = n := Memory.length_readBytes _ _ _ _

/-- Reading bytes that have been written returns them and draws nothing. -/
theorem Memory.readBytes_of_bytesAt (m : Memory) : ∀ (n a d : Nat) (bs : List Byte), m.bytesAt a n = some bs →
    m.readBytes a n d = (bs, d) := by
  intro n
  induction n with
  | zero => intro a d bs h; simp [Memory.bytesAt] at h; simp [Memory.readBytes, h]
  | succ n ih =>
    intro a d bs h
    simp only [Memory.bytesAt] at h
    split at h
    · next b bs' hb hbs =>
      simp only [Option.some.injEq] at h
      subst h
      simp [Memory.readBytes, hb, ih _ _ _ hbs]
    · exact absurd h (by simp)

/-- A byte that has been written is read as it stands, whatever bytes around it are open. -/
theorem Memory.readBytes_getElem (m : Memory) : ∀ (n a d k : Nat) (b : Byte), k < n → m.read (a + k) = some b →
    (m.readBytes a n d).1[k]? = some b := by
  intro n
  induction n with
  | zero => intro a d k b h; omega
  | succ n ih =>
    intro a d k b hk h
    cases k with
    | zero =>
      have h0 : m.read a = some b := h
      simp [Memory.readBytes, h0]
    | succ k =>
      have h' : m.read (a + 1 + k) = some b := by rw [← h]; congr 1; omega
      unfold Memory.readBytes
      split <;> simpa using ih _ _ k b (by omega) h'

/-- `n` bytes have been written, and what they are, byte by byte. -/
theorem Memory.bytesAt_eq_some (m : Memory) : ∀ (n a : Nat) (bs : List Byte), m.bytesAt a n = some bs ↔
    bs.length = n ∧ ∀ k, k < n → m.read (a + k) = bs[k]? := by
  intro n
  induction n with
  | zero =>
    intro a bs
    simp only [Memory.bytesAt, Option.some.injEq]
    constructor
    · rintro rfl; simp
    · rintro ⟨h, -⟩; exact (List.length_eq_zero_iff.1 h).symm
  | succ n ih =>
    intro a bs
    simp only [Memory.bytesAt]
    constructor
    · intro h
      split at h
      · next b bs' hb hbs =>
        simp only [Option.some.injEq] at h
        subst h
        obtain ⟨hl, hk⟩ := (ih _ _).1 hbs
        refine ⟨by simp [hl], fun k hk' => ?_⟩
        cases k with
        | zero => simpa using hb
        | succ k =>
          have := hk k (by omega)
          rw [show a + (k + 1) = a + 1 + k by omega, this]
          simp
      · exact absurd h (by simp)
    · rintro ⟨hl, hk⟩
      cases bs with
      | nil => simp at hl
      | cons b bs =>
        have h0 : m.read a = some b := by simpa using hk 0 (by omega)
        have h1 : m.bytesAt (a + 1) n = some bs := by
          refine (ih _ _).2 ⟨by simpa using hl, fun k hk' => ?_⟩
          have := hk (k + 1) (by omega)
          rw [show a + (k + 1) = a + 1 + k by omega] at this
          simpa using this
        simp [h0, h1]

/-- The block of a region's bytes where that block has been written. -/
theorem Memory.readBytes_slice (m : Memory) (a n d i k : Nat) (bs : List Byte) (hik : i + k ≤ n)
    (h : m.bytesAt (a + i) k = some bs) : ((m.readBytes a n d).1.drop i).take k = bs := by
  obtain ⟨hl, hk⟩ := (Memory.bytesAt_eq_some m k (a + i) bs).1 h
  apply List.ext_getElem?
  intro j
  by_cases hj : j < k
  · rw [List.getElem?_take, if_pos hj, List.getElem?_drop, ← hk j hj]
    have hb : m.read (a + (i + j)) = some bs[j] := by
      rw [← Nat.add_assoc, hk j hj]; simp [hl, hj]
    rw [Memory.readBytes_getElem m n a d (i + j) _ (by omega) hb, Nat.add_assoc, hb]
  · rw [List.getElem?_eq_none (by simp; omega), List.getElem?_eq_none (by omega)]

/-- A string just written is read back. -/
theorem Memory.bytesAt_writeBytes (m : Memory) (a : Nat) (bs : List Byte) :
    (m.writeBytes a bs).bytesAt a bs.length = some bs := by
  refine (Memory.bytesAt_eq_some _ _ _ _).2 ⟨rfl, fun k hk => ?_⟩
  rw [Memory.read_writeBytes, if_pos (by omega), Nat.add_sub_cancel_left]

/-- Bytes outside a written string are read as before. -/
theorem Memory.bytesAt_writeBytes_other (m : Memory) (a : Nat) (bs : List Byte) (x n : Nat)
    (h : x + n ≤ a ∨ a + bs.length ≤ x) : (m.writeBytes a bs).bytesAt x n = m.bytesAt x n := by
  induction n generalizing x with
  | zero => rfl
  | succ n ih =>
    have hr : (m.writeBytes a bs).read x = m.read x := by
      rw [Memory.read_writeBytes, if_neg (by omega)]
    simp only [Memory.bytesAt, hr, ih (x + 1) (by omega)]

/-- The bytes of a longer region split in two. -/
theorem Memory.bytesAt_append (m : Memory) (a n k : Nat) (bs cs : List Byte) (h1 : m.bytesAt a n = some bs)
    (h2 : m.bytesAt (a + n) k = some cs) : m.bytesAt a (n + k) = some (bs ++ cs) := by
  obtain ⟨hl1, hk1⟩ := (Memory.bytesAt_eq_some _ _ _ _).1 h1
  obtain ⟨hl2, hk2⟩ := (Memory.bytesAt_eq_some _ _ _ _).1 h2
  refine (Memory.bytesAt_eq_some _ _ _ _).2 ⟨by simp [hl1, hl2], fun i hi => ?_⟩
  by_cases h : i < n
  · rw [hk1 i h, List.getElem?_append_left (by omega)]
  · have := hk2 (i - n) (by omega)
    rw [show a + n + (i - n) = a + i by omega] at this
    rw [this, List.getElem?_append_right (by omega), hl1]

/-- The part of a region's bytes that lies at an offset in it. -/
theorem Memory.bytesAt_slice (m : Memory) (a n : Nat) (bs : List Byte) (h : m.bytesAt a n = some bs) (i k : Nat)
    (hik : i + k ≤ n) : m.bytesAt (a + i) k = some ((bs.drop i).take k) := by
  obtain ⟨hl, hk⟩ := (Memory.bytesAt_eq_some _ _ _ _).1 h
  refine (Memory.bytesAt_eq_some _ _ _ _).2 ⟨by simp [hl]; omega, fun j hj => ?_⟩
  rw [show a + i + j = a + (i + j) by omega, hk (i + j) (by omega), List.getElem?_take, if_pos hj, List.getElem?_drop]

end Sys2Proof.Machine
end

