-- ==== Sys2Proof/Laws/State.lean ====
section
/-! SUPPORT. One lemma per field per named update of State, true by unfolding, so that no later proof unfolds a record
update. -/

namespace Sys2Proof.Machine

/-! The update `complete`. -/

@[simp] theorem State.complete_idValue (s : State) (e : ErrCode) : (s.complete e).idValue = s.idValue := rfl
@[simp] theorem State.complete_bufSize (s : State) (e : ErrCode) : (s.complete e).bufSize = s.bufSize := rfl
@[simp] theorem State.complete_ie (s : State) (e : ErrCode) : (s.complete e).ie = s.ie := rfl
@[simp] theorem State.complete_busy (s : State) (e : ErrCode) : (s.complete e).busy = false := rfl
@[simp] theorem State.complete_done (s : State) (e : ErrCode) : (s.complete e).done = true := rfl
@[simp] theorem State.complete_ksv (s : State) (e : ErrCode) : (s.complete e).ksv = s.ksv := rfl
@[simp] theorem State.complete_ovr (s : State) (e : ErrCode) : (s.complete e).ovr = s.ovr := rfl
@[simp] theorem State.complete_err (s : State) (e : ErrCode) : (s.complete e).err = e.code := rfl
@[simp] theorem State.complete_cmd (s : State) (e : ErrCode) : (s.complete e).cmd = s.cmd := rfl
@[simp] theorem State.complete_src (s : State) (e : ErrCode) : (s.complete e).src = s.src := rfl
@[simp] theorem State.complete_dst (s : State) (e : ErrCode) : (s.complete e).dst = s.dst := rfl
@[simp] theorem State.complete_len (s : State) (e : ErrCode) : (s.complete e).len = s.len := rfl
@[simp] theorem State.complete_result (s : State) (e : ErrCode) : (s.complete e).result = s.result := rfl
@[simp] theorem State.complete_rk (s : State) (e : ErrCode) : (s.complete e).rk = s.rk := rfl
@[simp] theorem State.complete_mem (s : State) (e : ErrCode) : (s.complete e).mem = s.mem := rfl
@[simp] theorem State.complete_cur (s : State) (e : ErrCode) : (s.complete e).cur = s.cur := rfl
@[simp] theorem State.complete_hazard (s : State) (e : ErrCode) : (s.complete e).hazard = s.hazard := rfl
@[simp] theorem State.complete_draws (s : State) (e : ErrCode) : (s.complete e).draws = s.draws := rfl
@[simp] theorem State.complete_host (s : State) (e : ErrCode) : (s.complete e).host = s.host := rfl
@[simp] theorem State.complete_turns (s : State) (e : ErrCode) : (s.complete e).turns = s.turns := rfl

/-! The update `accept`. -/

@[simp] theorem State.accept_idValue (s : State) (w : Word) : (s.accept w).idValue = s.idValue := rfl
@[simp] theorem State.accept_bufSize (s : State) (w : Word) : (s.accept w).bufSize = s.bufSize := rfl
@[simp] theorem State.accept_ie (s : State) (w : Word) : (s.accept w).ie = s.ie := rfl
@[simp] theorem State.accept_busy (s : State) (w : Word) : (s.accept w).busy = true := rfl
@[simp] theorem State.accept_done (s : State) (w : Word) : (s.accept w).done = false := rfl
@[simp] theorem State.accept_ksv (s : State) (w : Word) : (s.accept w).ksv = s.ksv := rfl
@[simp] theorem State.accept_ovr (s : State) (w : Word) : (s.accept w).ovr = s.ovr := rfl
@[simp] theorem State.accept_err (s : State) (w : Word) : (s.accept w).err = s.err := rfl
@[simp] theorem State.accept_cmd (s : State) (w : Word) : (s.accept w).cmd = w := rfl
@[simp] theorem State.accept_src (s : State) (w : Word) : (s.accept w).src = s.src := rfl
@[simp] theorem State.accept_dst (s : State) (w : Word) : (s.accept w).dst = s.dst := rfl
@[simp] theorem State.accept_len (s : State) (w : Word) : (s.accept w).len = s.len := rfl
@[simp] theorem State.accept_result (s : State) (w : Word) : (s.accept w).result = s.result := rfl
@[simp] theorem State.accept_rk (s : State) (w : Word) : (s.accept w).rk = s.rk := rfl
@[simp] theorem State.accept_mem (s : State) (w : Word) : (s.accept w).mem = s.mem := rfl
@[simp] theorem State.accept_cur (s : State) (w : Word) : (s.accept w).cur = { word := w, opc := opcOf w, src := s.src, dst := s.dst, len := s.len } := rfl
@[simp] theorem State.accept_hazard (s : State) (w : Word) : (s.accept w).hazard = s.hazard := rfl
@[simp] theorem State.accept_draws (s : State) (w : Word) : (s.accept w).draws = s.draws := rfl
@[simp] theorem State.accept_host (s : State) (w : Word) : (s.accept w).host = s.host := rfl
@[simp] theorem State.accept_turns (s : State) (w : Word) : (s.accept w).turns = s.turns := rfl

/-! The update `writeStatus`. -/

@[simp] theorem State.writeStatus_idValue (s : State) (v : Word) : (s.writeStatus v).idValue = s.idValue := rfl
@[simp] theorem State.writeStatus_bufSize (s : State) (v : Word) : (s.writeStatus v).bufSize = s.bufSize := rfl
@[simp] theorem State.writeStatus_ie (s : State) (v : Word) : (s.writeStatus v).ie = s.ie := rfl
@[simp] theorem State.writeStatus_busy (s : State) (v : Word) : (s.writeStatus v).busy = s.busy := rfl
@[simp] theorem State.writeStatus_done (s : State) (v : Word) : (s.writeStatus v).done = (s.done && !v.getLsbD 1) := rfl
@[simp] theorem State.writeStatus_ksv (s : State) (v : Word) : (s.writeStatus v).ksv = s.ksv := rfl
@[simp] theorem State.writeStatus_ovr (s : State) (v : Word) : (s.writeStatus v).ovr = (s.ovr && !v.getLsbD 3) := rfl
@[simp] theorem State.writeStatus_err (s : State) (v : Word) : (s.writeStatus v).err = s.err := rfl
@[simp] theorem State.writeStatus_cmd (s : State) (v : Word) : (s.writeStatus v).cmd = s.cmd := rfl
@[simp] theorem State.writeStatus_src (s : State) (v : Word) : (s.writeStatus v).src = s.src := rfl
@[simp] theorem State.writeStatus_dst (s : State) (v : Word) : (s.writeStatus v).dst = s.dst := rfl
@[simp] theorem State.writeStatus_len (s : State) (v : Word) : (s.writeStatus v).len = s.len := rfl
@[simp] theorem State.writeStatus_result (s : State) (v : Word) : (s.writeStatus v).result = s.result := rfl
@[simp] theorem State.writeStatus_rk (s : State) (v : Word) : (s.writeStatus v).rk = s.rk := rfl
@[simp] theorem State.writeStatus_mem (s : State) (v : Word) : (s.writeStatus v).mem = s.mem := rfl
@[simp] theorem State.writeStatus_cur (s : State) (v : Word) : (s.writeStatus v).cur = s.cur := rfl
@[simp] theorem State.writeStatus_hazard (s : State) (v : Word) : (s.writeStatus v).hazard = s.hazard := rfl
@[simp] theorem State.writeStatus_draws (s : State) (v : Word) : (s.writeStatus v).draws = s.draws := rfl
@[simp] theorem State.writeStatus_host (s : State) (v : Word) : (s.writeStatus v).host = s.host := rfl
@[simp] theorem State.writeStatus_turns (s : State) (v : Word) : (s.writeStatus v).turns = s.turns := rfl

/-! The update `abandon`. -/

@[simp] theorem State.abandon_idValue (s : State) : (s.abandon).idValue = s.idValue := rfl
@[simp] theorem State.abandon_bufSize (s : State) : (s.abandon).bufSize = s.bufSize := rfl
@[simp] theorem State.abandon_ie (s : State) : (s.abandon).ie = s.ie := rfl
@[simp] theorem State.abandon_busy (s : State) : (s.abandon).busy = s.busy := rfl
@[simp] theorem State.abandon_done (s : State) : (s.abandon).done = s.done := rfl
@[simp] theorem State.abandon_ksv (s : State) : (s.abandon).ksv = s.ksv := rfl
@[simp] theorem State.abandon_ovr (s : State) : (s.abandon).ovr = s.ovr := rfl
@[simp] theorem State.abandon_err (s : State) : (s.abandon).err = s.err := rfl
@[simp] theorem State.abandon_cmd (s : State) : (s.abandon).cmd = s.cmd := rfl
@[simp] theorem State.abandon_src (s : State) : (s.abandon).src = s.src := rfl
@[simp] theorem State.abandon_dst (s : State) : (s.abandon).dst = s.dst := rfl
@[simp] theorem State.abandon_len (s : State) : (s.abandon).len = s.len := rfl
@[simp] theorem State.abandon_result (s : State) : (s.abandon).result = s.result := rfl
@[simp] theorem State.abandon_rk (s : State) : (s.abandon).rk = s.rk := rfl
@[simp] theorem State.abandon_cur (s : State) : (s.abandon).cur = s.cur := rfl
@[simp] theorem State.abandon_hazard (s : State) : (s.abandon).hazard = s.hazard := rfl
@[simp] theorem State.abandon_host (s : State) : (s.abandon).host = s.host := rfl
@[simp] theorem State.abandon_turns (s : State) : (s.abandon).turns = s.turns := rfl

/-! The update `clearRegisters`. -/

@[simp] theorem State.clearRegisters_idValue (s : State) : (s.clearRegisters).idValue = s.idValue := rfl
@[simp] theorem State.clearRegisters_bufSize (s : State) : (s.clearRegisters).bufSize = s.bufSize := rfl
@[simp] theorem State.clearRegisters_ie (s : State) : (s.clearRegisters).ie = false := rfl
@[simp] theorem State.clearRegisters_busy (s : State) : (s.clearRegisters).busy = false := rfl
@[simp] theorem State.clearRegisters_done (s : State) : (s.clearRegisters).done = false := rfl
@[simp] theorem State.clearRegisters_ksv (s : State) : (s.clearRegisters).ksv = false := rfl
@[simp] theorem State.clearRegisters_ovr (s : State) : (s.clearRegisters).ovr = false := rfl
@[simp] theorem State.clearRegisters_err (s : State) : (s.clearRegisters).err = 0 := rfl
@[simp] theorem State.clearRegisters_cmd (s : State) : (s.clearRegisters).cmd = 0 := rfl
@[simp] theorem State.clearRegisters_src (s : State) : (s.clearRegisters).src = 0 := rfl
@[simp] theorem State.clearRegisters_dst (s : State) : (s.clearRegisters).dst = 0 := rfl
@[simp] theorem State.clearRegisters_len (s : State) : (s.clearRegisters).len = 0 := rfl
@[simp] theorem State.clearRegisters_result (s : State) : (s.clearRegisters).result = 0 := rfl
@[simp] theorem State.clearRegisters_rk (s : State) : (s.clearRegisters).rk = zeroKeys := rfl
@[simp] theorem State.clearRegisters_mem (s : State) : (s.clearRegisters).mem = s.mem := rfl
@[simp] theorem State.clearRegisters_cur (s : State) : (s.clearRegisters).cur = { word := 0, opc := 0, src := 0, dst := 0, len := 0 } := rfl
@[simp] theorem State.clearRegisters_hazard (s : State) : (s.clearRegisters).hazard = s.hazard := rfl
@[simp] theorem State.clearRegisters_draws (s : State) : (s.clearRegisters).draws = s.draws := rfl
@[simp] theorem State.clearRegisters_host (s : State) : (s.clearRegisters).host = s.host := rfl
@[simp] theorem State.clearRegisters_turns (s : State) : (s.clearRegisters).turns = s.turns := rfl

/-! The update `warmReset`. -/

@[simp] theorem State.warmReset_idValue (s : State) : (s.warmReset).idValue = s.idValue := rfl
@[simp] theorem State.warmReset_bufSize (s : State) : (s.warmReset).bufSize = s.bufSize := rfl
@[simp] theorem State.warmReset_ie (s : State) : (s.warmReset).ie = false := rfl
@[simp] theorem State.warmReset_busy (s : State) : (s.warmReset).busy = false := rfl
@[simp] theorem State.warmReset_done (s : State) : (s.warmReset).done = false := rfl
@[simp] theorem State.warmReset_ksv (s : State) : (s.warmReset).ksv = false := rfl
@[simp] theorem State.warmReset_ovr (s : State) : (s.warmReset).ovr = false := rfl
@[simp] theorem State.warmReset_err (s : State) : (s.warmReset).err = 0 := rfl
@[simp] theorem State.warmReset_cmd (s : State) : (s.warmReset).cmd = 0 := rfl
@[simp] theorem State.warmReset_src (s : State) : (s.warmReset).src = 0 := rfl
@[simp] theorem State.warmReset_dst (s : State) : (s.warmReset).dst = 0 := rfl
@[simp] theorem State.warmReset_len (s : State) : (s.warmReset).len = 0 := rfl
@[simp] theorem State.warmReset_result (s : State) : (s.warmReset).result = 0 := rfl
@[simp] theorem State.warmReset_rk (s : State) : (s.warmReset).rk = zeroKeys := rfl
@[simp] theorem State.warmReset_mem (s : State) : (s.warmReset).mem = s.abandon.mem := rfl
@[simp] theorem State.warmReset_cur (s : State) : (s.warmReset).cur = { word := 0, opc := 0, src := 0, dst := 0, len := 0 } := rfl
@[simp] theorem State.warmReset_hazard (s : State) : (s.warmReset).hazard = s.hazard := rfl
@[simp] theorem State.warmReset_draws (s : State) : (s.warmReset).draws = s.abandon.draws := rfl
@[simp] theorem State.warmReset_host (s : State) : (s.warmReset).host = s.host := rfl
@[simp] theorem State.warmReset_turns (s : State) : (s.warmReset).turns = s.turns := rfl

/-! The update `powerOnReset`. -/

@[simp] theorem State.powerOnReset_idValue (s : State) : (s.powerOnReset).idValue = s.idValue := rfl
@[simp] theorem State.powerOnReset_bufSize (s : State) : (s.powerOnReset).bufSize = s.bufSize := rfl
@[simp] theorem State.powerOnReset_ie (s : State) : (s.powerOnReset).ie = false := rfl
@[simp] theorem State.powerOnReset_busy (s : State) : (s.powerOnReset).busy = false := rfl
@[simp] theorem State.powerOnReset_done (s : State) : (s.powerOnReset).done = false := rfl
@[simp] theorem State.powerOnReset_ksv (s : State) : (s.powerOnReset).ksv = false := rfl
@[simp] theorem State.powerOnReset_ovr (s : State) : (s.powerOnReset).ovr = false := rfl
@[simp] theorem State.powerOnReset_err (s : State) : (s.powerOnReset).err = 0 := rfl
@[simp] theorem State.powerOnReset_cmd (s : State) : (s.powerOnReset).cmd = 0 := rfl
@[simp] theorem State.powerOnReset_src (s : State) : (s.powerOnReset).src = 0 := rfl
@[simp] theorem State.powerOnReset_dst (s : State) : (s.powerOnReset).dst = 0 := rfl
@[simp] theorem State.powerOnReset_len (s : State) : (s.powerOnReset).len = 0 := rfl
@[simp] theorem State.powerOnReset_result (s : State) : (s.powerOnReset).result = 0 := rfl
@[simp] theorem State.powerOnReset_rk (s : State) : (s.powerOnReset).rk = zeroKeys := rfl
@[simp] theorem State.powerOnReset_mem (s : State) : (s.powerOnReset).mem = [] := rfl
@[simp] theorem State.powerOnReset_cur (s : State) : (s.powerOnReset).cur = { word := 0, opc := 0, src := 0, dst := 0, len := 0 } := rfl
@[simp] theorem State.powerOnReset_hazard (s : State) : (s.powerOnReset).hazard = s.hazard := rfl
@[simp] theorem State.powerOnReset_draws (s : State) : (s.powerOnReset).draws = s.abandon.draws := rfl
@[simp] theorem State.powerOnReset_host (s : State) : (s.powerOnReset).host = s.host := rfl
@[simp] theorem State.powerOnReset_turns (s : State) : (s.powerOnReset).turns = s.turns := rfl

/-! The update `taint`. -/

@[simp] theorem State.taint_idValue (s : State) (w : Word) : (s.taint w).idValue = s.idValue := rfl
@[simp] theorem State.taint_bufSize (s : State) (w : Word) : (s.taint w).bufSize = s.bufSize := rfl
@[simp] theorem State.taint_ie (s : State) (w : Word) : (s.taint w).ie = s.ie := rfl
@[simp] theorem State.taint_busy (s : State) (w : Word) : (s.taint w).busy = s.busy := rfl
@[simp] theorem State.taint_done (s : State) (w : Word) : (s.taint w).done = s.done := rfl
@[simp] theorem State.taint_ovr (s : State) (w : Word) : (s.taint w).ovr = s.ovr := rfl
@[simp] theorem State.taint_cmd (s : State) (w : Word) : (s.taint w).cmd = s.cmd := rfl
@[simp] theorem State.taint_src (s : State) (w : Word) : (s.taint w).src = s.src := rfl
@[simp] theorem State.taint_dst (s : State) (w : Word) : (s.taint w).dst = s.dst := rfl
@[simp] theorem State.taint_len (s : State) (w : Word) : (s.taint w).len = s.len := rfl
@[simp] theorem State.taint_mem (s : State) (w : Word) : (s.taint w).mem = [] := rfl
@[simp] theorem State.taint_cur (s : State) (w : Word) : (s.taint w).cur = s.cur := rfl
@[simp] theorem State.taint_hazard (s : State) (w : Word) : (s.taint w).hazard = s.hazard := rfl
@[simp] theorem State.taint_host (s : State) (w : Word) : (s.taint w).host = s.host := rfl
@[simp] theorem State.taint_turns (s : State) (w : Word) : (s.taint w).turns = s.turns := rfl

/-! The update `noteRead`. -/

@[simp] theorem State.noteRead_idValue (s : State) (v : Word) : (s.noteRead v).idValue = s.idValue := rfl
@[simp] theorem State.noteRead_bufSize (s : State) (v : Word) : (s.noteRead v).bufSize = s.bufSize := rfl
@[simp] theorem State.noteRead_ie (s : State) (v : Word) : (s.noteRead v).ie = s.ie := rfl
@[simp] theorem State.noteRead_busy (s : State) (v : Word) : (s.noteRead v).busy = s.busy := rfl
@[simp] theorem State.noteRead_done (s : State) (v : Word) : (s.noteRead v).done = s.done := rfl
@[simp] theorem State.noteRead_ksv (s : State) (v : Word) : (s.noteRead v).ksv = s.ksv := rfl
@[simp] theorem State.noteRead_ovr (s : State) (v : Word) : (s.noteRead v).ovr = s.ovr := rfl
@[simp] theorem State.noteRead_err (s : State) (v : Word) : (s.noteRead v).err = s.err := rfl
@[simp] theorem State.noteRead_cmd (s : State) (v : Word) : (s.noteRead v).cmd = s.cmd := rfl
@[simp] theorem State.noteRead_src (s : State) (v : Word) : (s.noteRead v).src = s.src := rfl
@[simp] theorem State.noteRead_dst (s : State) (v : Word) : (s.noteRead v).dst = s.dst := rfl
@[simp] theorem State.noteRead_len (s : State) (v : Word) : (s.noteRead v).len = s.len := rfl
@[simp] theorem State.noteRead_result (s : State) (v : Word) : (s.noteRead v).result = s.result := rfl
@[simp] theorem State.noteRead_rk (s : State) (v : Word) : (s.noteRead v).rk = s.rk := rfl
@[simp] theorem State.noteRead_mem (s : State) (v : Word) : (s.noteRead v).mem = s.mem := rfl
@[simp] theorem State.noteRead_cur (s : State) (v : Word) : (s.noteRead v).cur = s.cur := rfl
@[simp] theorem State.noteRead_hazard (s : State) (v : Word) : (s.noteRead v).hazard = s.hazard := rfl
@[simp] theorem State.noteRead_draws (s : State) (v : Word) : (s.noteRead v).draws = s.draws := rfl
@[simp] theorem State.noteRead_host (s : State) (v : Word) : (s.noteRead v).host = { s.host with reads := v :: s.host.reads } := rfl
@[simp] theorem State.noteRead_turns (s : State) (v : Word) : (s.noteRead v).turns = s.turns := rfl

/-! The update `goto`. -/

@[simp] theorem State.goto_idValue (s : State) (n : Nat) : (s.goto n).idValue = s.idValue := rfl
@[simp] theorem State.goto_bufSize (s : State) (n : Nat) : (s.goto n).bufSize = s.bufSize := rfl
@[simp] theorem State.goto_ie (s : State) (n : Nat) : (s.goto n).ie = s.ie := rfl
@[simp] theorem State.goto_busy (s : State) (n : Nat) : (s.goto n).busy = s.busy := rfl
@[simp] theorem State.goto_done (s : State) (n : Nat) : (s.goto n).done = s.done := rfl
@[simp] theorem State.goto_ksv (s : State) (n : Nat) : (s.goto n).ksv = s.ksv := rfl
@[simp] theorem State.goto_ovr (s : State) (n : Nat) : (s.goto n).ovr = s.ovr := rfl
@[simp] theorem State.goto_err (s : State) (n : Nat) : (s.goto n).err = s.err := rfl
@[simp] theorem State.goto_cmd (s : State) (n : Nat) : (s.goto n).cmd = s.cmd := rfl
@[simp] theorem State.goto_src (s : State) (n : Nat) : (s.goto n).src = s.src := rfl
@[simp] theorem State.goto_dst (s : State) (n : Nat) : (s.goto n).dst = s.dst := rfl
@[simp] theorem State.goto_len (s : State) (n : Nat) : (s.goto n).len = s.len := rfl
@[simp] theorem State.goto_result (s : State) (n : Nat) : (s.goto n).result = s.result := rfl
@[simp] theorem State.goto_rk (s : State) (n : Nat) : (s.goto n).rk = s.rk := rfl
@[simp] theorem State.goto_mem (s : State) (n : Nat) : (s.goto n).mem = s.mem := rfl
@[simp] theorem State.goto_cur (s : State) (n : Nat) : (s.goto n).cur = s.cur := rfl
@[simp] theorem State.goto_hazard (s : State) (n : Nat) : (s.goto n).hazard = s.hazard := rfl
@[simp] theorem State.goto_draws (s : State) (n : Nat) : (s.goto n).draws = s.draws := rfl
@[simp] theorem State.goto_host (s : State) (n : Nat) : (s.goto n).host = { s.host with hpc := n } := rfl
@[simp] theorem State.goto_turns (s : State) (n : Nat) : (s.goto n).turns = s.turns := rfl

/-! The update `takeTurn`. -/

@[simp] theorem State.takeTurn_idValue (s : State) : (s.takeTurn).idValue = s.idValue := rfl
@[simp] theorem State.takeTurn_bufSize (s : State) : (s.takeTurn).bufSize = s.bufSize := rfl
@[simp] theorem State.takeTurn_ie (s : State) : (s.takeTurn).ie = s.ie := rfl
@[simp] theorem State.takeTurn_busy (s : State) : (s.takeTurn).busy = s.busy := rfl
@[simp] theorem State.takeTurn_done (s : State) : (s.takeTurn).done = s.done := rfl
@[simp] theorem State.takeTurn_ksv (s : State) : (s.takeTurn).ksv = s.ksv := rfl
@[simp] theorem State.takeTurn_ovr (s : State) : (s.takeTurn).ovr = s.ovr := rfl
@[simp] theorem State.takeTurn_err (s : State) : (s.takeTurn).err = s.err := rfl
@[simp] theorem State.takeTurn_cmd (s : State) : (s.takeTurn).cmd = s.cmd := rfl
@[simp] theorem State.takeTurn_src (s : State) : (s.takeTurn).src = s.src := rfl
@[simp] theorem State.takeTurn_dst (s : State) : (s.takeTurn).dst = s.dst := rfl
@[simp] theorem State.takeTurn_len (s : State) : (s.takeTurn).len = s.len := rfl
@[simp] theorem State.takeTurn_result (s : State) : (s.takeTurn).result = s.result := rfl
@[simp] theorem State.takeTurn_rk (s : State) : (s.takeTurn).rk = s.rk := rfl
@[simp] theorem State.takeTurn_mem (s : State) : (s.takeTurn).mem = s.mem := rfl
@[simp] theorem State.takeTurn_cur (s : State) : (s.takeTurn).cur = s.cur := rfl
@[simp] theorem State.takeTurn_hazard (s : State) : (s.takeTurn).hazard = s.hazard := rfl
@[simp] theorem State.takeTurn_draws (s : State) : (s.takeTurn).draws = s.draws := rfl
@[simp] theorem State.takeTurn_host (s : State) : (s.takeTurn).host = s.host := rfl
@[simp] theorem State.takeTurn_turns (s : State) : (s.takeTurn).turns = s.turns.tail := rfl

end Sys2Proof.Machine
end

