-- ==== Sys2Proof/Laws/Ops.lean ====
section
/-! SUPPORT. For each shared operation of the machine, what it can do, said once: the checks of the commands and the
bodies behind them, the region an abandoned command leaves open, and what the ports do. -/

namespace Sys2Proof.Machine

/-! Operands. -/

@[simp] theorem State.fits_iff (s : State) (a n : Nat) : s.fits a n = true ↔ a + n ≤ s.bufSize := by
  simp [State.fits]

@[simp] theorem aligned16_iff (n : Nat) : aligned16 n = true ↔ n % 16 = 0 := by simp [aligned16]

@[simp] theorem overlapping_iff (a d n : Nat) : overlapping a d n = true ↔ a ≠ d ∧ a < d + n ∧ d < a + n := by
  simp [overlapping, and_assoc]

theorem padLength_pos (n : Nat) : 1 ≤ padLength n := by unfold padLength; omega

theorem padLength_le (n : Nat) : padLength n ≤ 16 := by unfold padLength; omega

/-- The padded length is the next multiple of 16 above the message length (40_segmenter.md R152). -/
theorem add_padLength (n : Nat) : n + padLength n = 16 * (n / 16 + 1) := by unfold padLength; omega

@[simp] theorem length_paddingBytes (n : Nat) : (paddingBytes n).length = padLength n := by simp [paddingBytes]

/-- `BlockChecks` passes exactly on the operands of `blockOperandsOk`. -/
theorem State.blockChecks_eq_none (s : State) : s.blockChecks = none ↔ s.blockOperandsOk := by
  unfold State.blockChecks State.blockOperandsOk
  cases hk : s.ksv
  · simp
  · by_cases h1 : s.srcOffset % 16 = 0 ∧ s.dstOffset % 16 = 0 ∧ s.lenBytes % 16 = 0
    · by_cases h2 : s.srcOffset + s.lenBytes ≤ s.bufSize ∧ s.dstOffset + s.lenBytes ≤ s.bufSize
      · simp [aligned16, State.fits, overlapping, h1, h2]
        omega
      · have : ¬ (s.fits s.srcOffset s.lenBytes && s.fits s.dstOffset s.lenBytes) = true := by simpa using h2
        simp [aligned16, this, h1, h2]
    · have : ¬ (aligned16 s.srcOffset && aligned16 s.dstOffset && aligned16 s.lenBytes) = true := by
        simpa [and_assoc] using h1
      simp [this, h1]

/-- The codes `BlockChecks` raises. -/
theorem State.blockChecks_codes (s : State) (e : ErrCode) (h : s.blockChecks = some e) :
    e = .invalidState ∨ e = .align ∨ e = .range ∨ e = .overlap := by
  unfold State.blockChecks at h
  repeat' split at h
  all_goals simp_all

/-! Commands: each body either raises and leaves the state, or writes what it says and nothing else. -/

/-- How a command ends. -/
theorem State.settle_ok (s t : State) : s.settle (.ok t) = t.complete .none := rfl

theorem State.settle_error (s : State) (e : ErrCode) : s.settle (.error e) = s.complete e := rfl

/-- ENCRYPT and DECRYPT: the checks raise, or the region is written. -/
theorem State.transformBody_cases (s : State) (f : Block → Block) :
    (∃ e, s.blockChecks = some e ∧ s.transformBody f = .error e) ∨
    (s.blockOperandsOk ∧ s.transformBody f = .ok { s with
      mem := s.mem.writeBytes s.dstOffset
        (transformBlocks f (s.lenBytes / 16) (s.mem.readBytes s.srcOffset s.lenBytes s.draws).1)
      result := s.cur.len
      draws := (s.mem.readBytes s.srcOffset s.lenBytes s.draws).2 }) := by
  cases h : s.blockChecks with
  | none => exact .inr ⟨(State.blockChecks_eq_none s).1 h, by simp [State.transformBody, h]⟩
  | some e => exact .inl ⟨e, rfl, by simp [State.transformBody, h]⟩

/-- EXPAND: a wrong length raises first, then the range; else the schedule is written. -/
theorem State.expandBody_cases (s : State) :
    (s.lenBytes ≠ 16 ∧ s.expandBody = .error .invalidKeyLength) ∨
    (s.lenBytes = 16 ∧ s.bufSize < s.srcOffset + 16 ∧ s.expandBody = .error .range) ∨
    (s.lenBytes = 16 ∧ s.srcOffset + 16 ≤ s.bufSize ∧ s.expandBody = .ok { s with
      rk := keyExpansion (Block.ofBytes (s.mem.readBytes s.srcOffset 16 s.draws).1)
      ksv := true
      result := roundCount
      draws := (s.mem.readBytes s.srcOffset 16 s.draws).2 }) := by
  by_cases h1 : s.lenBytes = 16
  · by_cases h2 : s.srcOffset + 16 ≤ s.bufSize
    · exact .inr (.inr ⟨h1, h2, by simp [State.expandBody, State.fits, h1, h2]⟩)
    · exact .inr (.inl ⟨h1, by omega, by simp [State.expandBody, State.fits, h1, h2]⟩)
  · exact .inl ⟨h1, by simp [State.expandBody, h1]⟩

/-- PAD: the range raises, or the padding bytes are written. -/
theorem State.padBody_cases (s : State) :
    (s.bufSize < s.srcOffset + (s.lenBytes + padLength s.lenBytes) ∧ s.padBody = .error .range) ∨
    (s.srcOffset + (s.lenBytes + padLength s.lenBytes) ≤ s.bufSize ∧ s.padBody = .ok { s with
      mem := s.mem.writeBytes (s.srcOffset + s.lenBytes) (paddingBytes s.lenBytes)
      result := BitVec.ofNat 32 (s.lenBytes + padLength s.lenBytes) }) := by
  by_cases h : s.srcOffset + (s.lenBytes + padLength s.lenBytes) ≤ s.bufSize
  · exact .inr ⟨h, by simp [State.padBody, State.fits, h]⟩
  · exact .inl ⟨by omega, by simp [State.padBody, State.fits, h]⟩

/-- UNPAD finds an error of its two codes, or a length at most the padded one. -/
theorem State.unpadScan_cases (s : State) :
    s.unpadScan.1 = .error .range ∨ s.unpadScan.1 = .error .invalidPadding ∨
    ∃ n, n ≤ s.lenBytes ∧ s.unpadScan.1 = .ok n := by
  unfold State.unpadScan
  dsimp only
  repeat' split
  all_goals simp

/-- UNPAD checks the range before it reads a byte, and raises ERR_RANGE for nothing else (40_segmenter.md R156). -/
theorem State.unpadScan_range (s : State) : s.unpadScan.1 = .error .range ↔ s.bufSize < s.srcOffset + s.lenBytes := by
  unfold State.unpadScan
  by_cases h : s.srcOffset + s.lenBytes ≤ s.bufSize
  · have hf : s.fits s.srcOffset s.lenBytes = true := by simpa using h
    simp only [hf, Bool.not_true, Bool.false_eq_true, if_false]
    constructor
    · intro he
      repeat' split at he
      all_goals simp at he
    · omega
  · have hf : s.fits s.srcOffset s.lenBytes = false := by
      rw [← Bool.not_eq_true, State.fits_iff]; exact h
    simp only [hf, Bool.not_false, if_true, true_iff]
    omega

/-- The state a command ends in, whatever the command: either an error code on the state before it (the draws of
UNPAD's reads apart), or its body's writes and code zero. -/
theorem exec_cases (i : Instr) (s : State) :
    (∃ e d, e.code.toNat < 8 ∧ e.code ≠ 0 ∧ exec i s = .next (State.complete { s with draws := d } e)) ∨
    (∃ m d r k v, exec i s = .next (State.complete { s with mem := m, draws := d, result := r, rk := k, ksv := v } .none) ∧
      (storesBuffer i = false → m = s.mem) ∧ (writesResult i = false → r = s.result) ∧
      (writesSchedule i = false → k = s.rk ∧ v = s.ksv)) := by
  have block : ∀ f, (∃ e d, e.code.toNat < 8 ∧ e.code ≠ 0 ∧
        s.settle (s.transformBody f) = State.complete { s with draws := d } e) ∨
      (∃ m d r, s.settle (s.transformBody f) = State.complete { s with mem := m, draws := d, result := r } .none) := by
    intro f
    rcases State.transformBody_cases s f with ⟨e, he, h⟩ | ⟨-, h⟩
    · refine .inl ⟨e, s.draws, ?_, ?_, by rw [h]; rfl⟩ <;>
        rcases State.blockChecks_codes s e he with rfl | rfl | rfl | rfl <;> decide
    · exact .inr ⟨_, _, _, by rw [h]; rfl⟩
  cases i with
  | nop => exact .inr ⟨_, _, _, _, _, rfl, fun _ => rfl, fun _ => rfl, fun _ => ⟨rfl, rfl⟩⟩
  | ksclr =>
    exact .inr ⟨s.mem, s.draws, s.result, zeroKeys, false, rfl, fun _ => rfl, fun _ => rfl, fun h => absurd h (by decide)⟩
  | expand =>
    rcases State.expandBody_cases s with ⟨-, h⟩ | ⟨-, -, h⟩ | ⟨-, -, h⟩
    · exact .inl ⟨.invalidKeyLength, s.draws, by decide, by decide, by simp [exec, execExpand, h, State.settle]⟩
    · exact .inl ⟨.range, s.draws, by decide, by decide, by simp [exec, execExpand, h, State.settle]⟩
    · exact .inr ⟨s.mem, _, _, _, _, by rw [exec, execExpand, h]; rfl, fun _ => rfl,
        fun h => absurd h (by decide), fun h => absurd h (by decide)⟩
  | encrypt =>
    rcases block fun b => cipher b s.rk with ⟨e, d, h1, h2, h⟩ | ⟨m, d, r, h⟩
    · exact .inl ⟨e, d, h1, h2, by rw [exec, execEncrypt, h]⟩
    · exact .inr ⟨m, d, r, s.rk, s.ksv, by rw [exec, execEncrypt, h], fun h => absurd h (by decide),
        fun h => absurd h (by decide), fun _ => ⟨rfl, rfl⟩⟩
  | decrypt =>
    rcases block fun b => invCipher b s.rk with ⟨e, d, h1, h2, h⟩ | ⟨m, d, r, h⟩
    · exact .inl ⟨e, d, h1, h2, by rw [exec, execDecrypt, h]⟩
    · exact .inr ⟨m, d, r, s.rk, s.ksv, by rw [exec, execDecrypt, h], fun h => absurd h (by decide),
        fun h => absurd h (by decide), fun _ => ⟨rfl, rfl⟩⟩
  | pad =>
    rcases State.padBody_cases s with ⟨-, h⟩ | ⟨-, h⟩
    · exact .inl ⟨.range, s.draws, by decide, by decide, by simp [exec, execPad, h, State.settle]⟩
    · exact .inr ⟨_, s.draws, _, s.rk, s.ksv, by rw [exec, execPad, h]; rfl,
        fun h => absurd h (by decide), fun h => absurd h (by decide), fun _ => ⟨rfl, rfl⟩⟩
  | unpad =>
    rcases State.unpadScan_cases s with h | h | ⟨n, -, h⟩
    · exact .inl ⟨.range, s.unpadScan.2, by decide, by decide, by simp [exec, execUnpad, h, State.settle, Except.map]⟩
    · exact .inl ⟨.invalidPadding, s.unpadScan.2, by decide, by decide,
        by simp [exec, execUnpad, h, State.settle, Except.map]⟩
    · exact .inr ⟨s.mem, s.unpadScan.2, BitVec.ofNat 32 n, s.rk, s.ksv,
        by simp [exec, execUnpad, h, State.settle, Except.map], fun _ => rfl, fun h => absurd h (by decide),
        fun _ => ⟨rfl, rfl⟩⟩

end Sys2Proof.Machine
end

