-- ==== Sys2Proof/Laws/PerInstr.lean ====
section
/-! SUPPORT. Statements about each command as syntax, one lemma per constructor. -/

namespace Sys2Proof.Laws.RoundTrip

/-- The command is well formed, its word has the form CMDW with RSV zero and an assigned code, and the word decodes to
the command (30_encoding.md R120, R123, R124). -/
def Statement (i : Instr) : Prop := i.wf = true ∧ (fieldsOf (encode i)).wf = true ∧ decode (encode i) = .ok i

theorem nop : Statement .nop := ⟨rfl, rfl, rfl⟩

theorem expand : Statement .expand := ⟨rfl, rfl, rfl⟩

theorem encrypt : Statement .encrypt := ⟨rfl, rfl, rfl⟩

theorem decrypt : Statement .decrypt := ⟨rfl, rfl, rfl⟩

theorem pad : Statement .pad := ⟨rfl, rfl, rfl⟩

theorem unpad : Statement .unpad := ⟨rfl, rfl, rfl⟩

theorem ksclr : Statement .ksclr := ⟨rfl, rfl, rfl⟩

end Sys2Proof.Laws.RoundTrip
end

