-- ==== Sys2Proof/Laws/Step.lean ====
section
/-! SUPPORT. What a step can do, said once: the engine completes a command, the host performs one statement, or a
reset. -/

namespace Sys2Proof.Machine

/-- A busy engine's move answers a next state for every command word: the accepted command's outcome, as a hazard
leaves it. -/
theorem engineStep_busy (s : State) (h : s.busy = true) :
    ∃ t, s.runLatched = .next t ∧ engineStep s = .next (if s.hazard then t.taint s.cur.word else t) := by
  have : ∃ t, s.runLatched = .next t := by
    unfold State.runLatched
    split
    · next i _ =>
      rcases exec_cases i s with ⟨e, d, -, -, h⟩ | ⟨m, d, r, k, v, h, -⟩
      · exact ⟨_, h⟩
      · exact ⟨_, h⟩
    · exact ⟨_, rfl⟩
  obtain ⟨t, ht⟩ := this
  exact ⟨t, ht, by simp [engineStep, h, ht, State.afterHazard]⟩

/-- The host's move: nothing when its program has ended, a refusal for a malformed transaction, else the
transaction and the next statement. -/
theorem hostStep_cases (s : State) (r : Host.Outcome State Fault Refusal) (h : hostStep s = r) :
    (s.hostEnded = true ∧ r = .next s) ∨
    (∃ st t e, s.statement = some st ∧ st.txn? = some t ∧ t.refusal s.bufSize = some e ∧ r = .refused e) ∨
    (∃ st t, s.statement = some st ∧ st.txn? = some t ∧ t.refusal s.bufSize = none ∧
      r = .next ((s.perform t).goto (s.nextHpc st))) := by
  subst h
  unfold hostStep
  split
  · next hs => exact .inl ⟨by simp [State.hostEnded, hs], rfl⟩
  · next st hs =>
    unfold State.runStmt
    split
    · next ht =>
      cases st <;> simp [Stmt.txn?] at ht
      exact .inl ⟨by simp [State.hostEnded, hs], rfl⟩
    · next t ht =>
      split
      · next e he => exact .inr (.inl ⟨st, t, e, hs, ht, he, rfl⟩)
      · next he => exact .inr (.inr ⟨st, t, hs, ht, he, rfl⟩)

/-- What a step that answers a next state did. -/
theorem step_cases (s s' : State) (h : step s = .next s') :
    (s.nextTurn = .engine ∧ s.busy = false ∧ s' = s.takeTurn) ∨
    (s.nextTurn = .engine ∧ s.busy = true ∧ ∃ t, s.takeTurn.runLatched = .next t ∧
      s' = if s.hazard then t.taint s.cur.word else t) ∨
    (s.nextTurn = .host ∧ s.hostEnded = true ∧ s' = s.takeTurn) ∨
    (s.nextTurn = .host ∧ ∃ st t, s.statement = some st ∧ st.txn? = some t ∧ t.refusal s.bufSize = none ∧
      s' = (s.takeTurn.perform t).goto (s.takeTurn.nextHpc st)) ∨
    (s.nextTurn = .hardReset ∧ s' = s.takeTurn.warmReset) ∨
    (s.nextTurn = .powerOn ∧ s' = s.takeTurn.powerOnReset) := by
  unfold step at h
  split at h
  · next ht =>
    rcases hostStep_cases _ _ h with ⟨he, hr⟩ | ⟨st, t, e, -, -, -, hr⟩ | ⟨st, t, hs, hx, hn, hr⟩
    · exact .inr (.inr (.inl ⟨ht, he, by simpa using hr⟩))
    · exact absurd hr (by simp)
    · exact .inr (.inr (.inr (.inl ⟨ht, st, t, hs, hx, hn, by simpa using hr⟩)))
  · next ht =>
    cases hb : s.busy with
    | false =>
      left
      refine ⟨ht, rfl, ?_⟩
      simp [engineStep, hb] at h
      exact h.symm
    | true =>
      right; left
      obtain ⟨t, h1, h2⟩ := engineStep_busy s.takeTurn hb
      rw [h2] at h
      exact ⟨ht, rfl, t, h1, (Host.Outcome.next.inj h).symm⟩
  · next ht => exact .inr (.inr (.inr (.inr (.inl ⟨ht, by simpa using h.symm⟩))))
  · next ht => exact .inr (.inr (.inr (.inr (.inr ⟨ht, by simpa using h.symm⟩))))

/-- What a host transaction does to the engine's state, read by read and write by write. -/
theorem perform_cases (s : State) (t : Txn) :
    (t.dir = .read ∧ ∃ d, s.perform t = State.noteRead { s with draws := d } (s.readValue t)) ∨
    (t.dir = .write ∧ t.space = .reg ∧ s.perform t = s.writeReg (Reg.ofOffset t.offset.toNat) t.data) ∨
    (t.dir = .write ∧ t.space = .buf ∧
      s.perform t = s.writeBuffer t.offset.toNat ((leBytes t.data).take t.byteCount)) := by
  obtain ⟨sp, dir, w, o, v⟩ := t
  cases dir
  · cases sp
    · exact .inr (.inl ⟨rfl, rfl, rfl⟩)
    · exact .inr (.inr ⟨rfl, rfl, rfl⟩)
  · cases sp
    · exact .inl ⟨rfl, _, rfl⟩
    · exact .inl ⟨rfl, _, rfl⟩

/-- A register write does one of these and nothing else. -/
theorem writeReg_cases (s : State) (r : Reg) (v : Word) :
    (r = .ctrl ∧ v.getLsbD 1 = true ∧ s.writeReg r v = s.warmReset) ∨
    (r = .ctrl ∧ v.getLsbD 1 = false ∧ s.writeReg r v = { s with ie := v.getLsbD 0 }) ∨
    (r = .status ∧ s.writeReg r v = s.writeStatus v) ∨
    (r = .cmd ∧ s.busy = true ∧ s.writeReg r v = { s with ovr := true }) ∨
    (r = .cmd ∧ s.busy = false ∧ s.writeReg r v = s.accept v) ∨
    (∃ x y z, s.writeReg r v = { s with src := x, dst := y, len := z }) := by
  cases r with
  | ctrl =>
    cases h : v.getLsbD 1
    · exact .inr (.inl ⟨rfl, rfl, by simp only [State.writeReg, State.writeCtrl, h]; rfl⟩)
    · exact .inl ⟨rfl, rfl, by simp only [State.writeReg, State.writeCtrl, h]; rfl⟩
  | status => exact .inr (.inr (.inl ⟨rfl, rfl⟩))
  | cmd =>
    cases h : s.busy
    · exact .inr (.inr (.inr (.inr (.inl ⟨rfl, rfl, by simp only [State.writeReg, State.writeCmd, h]; rfl⟩))))
    · exact .inr (.inr (.inr (.inl ⟨rfl, rfl, by simp only [State.writeReg, State.writeCmd, h]; rfl⟩)))
  | src => exact .inr (.inr (.inr (.inr (.inr ⟨v, s.dst, s.len, rfl⟩))))
  | dst => exact .inr (.inr (.inr (.inr (.inr ⟨s.src, v, s.len, rfl⟩))))
  | len => exact .inr (.inr (.inr (.inr (.inr ⟨s.src, s.dst, v, rfl⟩))))
  | id => exact .inr (.inr (.inr (.inr (.inr ⟨s.src, s.dst, s.len, rfl⟩))))
  | err => exact .inr (.inr (.inr (.inr (.inr ⟨s.src, s.dst, s.len, rfl⟩))))
  | result => exact .inr (.inr (.inr (.inr (.inr ⟨s.src, s.dst, s.len, rfl⟩))))
  | nr => exact .inr (.inr (.inr (.inr (.inr ⟨s.src, s.dst, s.len, rfl⟩))))
  | bufSize => exact .inr (.inr (.inr (.inr (.inr ⟨s.src, s.dst, s.len, rfl⟩))))
  | rkw k => exact .inr (.inr (.inr (.inr (.inr ⟨s.src, s.dst, s.len, rfl⟩))))
  | reserved => exact .inr (.inr (.inr (.inr (.inr ⟨s.src, s.dst, s.len, rfl⟩))))

/-- A buffer write is a hazard, or is lost in the open buffer after one, or stores its bytes. -/
theorem writeBuffer_cases (s : State) (a : Nat) (bs : List Byte) :
    (s.busy = true ∧ s.writeBuffer a bs = { s with hazard := true, mem := [] }) ∨
    (s.busy = false ∧ s.hazard = true ∧ s.writeBuffer a bs = s) ∨
    (s.busy = false ∧ s.hazard = false ∧ s.writeBuffer a bs = { s with mem := s.mem.writeBytes a bs }) := by
  cases hb : s.busy
  · cases hh : s.hazard
    · exact .inr (.inr ⟨rfl, rfl, by simp only [State.writeBuffer, hb, hh]; rfl⟩)
    · exact .inr (.inl ⟨rfl, rfl, by simp only [State.writeBuffer, hb, hh]; rfl⟩)
  · exact .inl ⟨rfl, by simp only [State.writeBuffer, hb]; rfl⟩

end Sys2Proof.Machine
end

