-- ==== Sys2Proof/Laws/Ports.lean ====
section
/-! SUPPORT. The register map at its named offsets, and each kind of transaction as the operation behind it. -/

namespace Sys2Proof.Machine

@[simp] theorem Reg.ofOffset_id : Reg.ofOffset 0 = .id := rfl
@[simp] theorem Reg.ofOffset_ctrl : Reg.ofOffset 4 = .ctrl := rfl
@[simp] theorem Reg.ofOffset_status : Reg.ofOffset 8 = .status := rfl
@[simp] theorem Reg.ofOffset_err : Reg.ofOffset 12 = .err := rfl
@[simp] theorem Reg.ofOffset_cmd : Reg.ofOffset 16 = .cmd := rfl
@[simp] theorem Reg.ofOffset_src : Reg.ofOffset 20 = .src := rfl
@[simp] theorem Reg.ofOffset_dst : Reg.ofOffset 24 = .dst := rfl
@[simp] theorem Reg.ofOffset_len : Reg.ofOffset 28 = .len := rfl
@[simp] theorem Reg.ofOffset_result : Reg.ofOffset 32 = .result := rfl
@[simp] theorem Reg.ofOffset_nr : Reg.ofOffset 36 = .nr := rfl
@[simp] theorem Reg.ofOffset_bufSize : Reg.ofOffset 40 = .bufSize := rfl

/-- Past the named registers a word-aligned offset is a window word or reserved (10_state.md R33). -/
theorem Reg.ofOffset_high (o : Nat) (h : 44 ≤ o) :
    Reg.ofOffset o = if 64 ≤ o / 4 ∧ o / 4 < 108 then .rkw (o / 4 - 64) else .reserved := by
  have hk : 11 ≤ o / 4 := by omega
  unfold Reg.ofOffset
  split <;> first | omega | rfl

@[simp] theorem State.afterWrite_regWrite (s : State) (o v : Word) :
    s.afterWrite (regWrite o v) = s.writeReg (Reg.ofOffset o.toNat) v := rfl

@[simp] theorem State.readValue_regRead (s : State) (o : Word) :
    s.readValue (regRead o) = s.readReg (Reg.ofOffset o.toNat) := rfl

@[simp] theorem State.afterRead_regRead (s : State) (o : Word) :
    s.afterRead (regRead o) = { s with draws := s.draws + s.regDraws (Reg.ofOffset o.toNat) } := rfl

@[simp] theorem State.afterWrite_bufWrite8 (s : State) (a v : Word) :
    s.afterWrite (bufWrite 8 a v) = s.writeBuffer a.toNat [v.extractLsb' 0 8] := rfl

@[simp] theorem State.afterWrite_bufWrite32 (s : State) (a v : Word) :
    s.afterWrite (bufWrite 32 a v) = s.writeBuffer a.toNat (leBytes v) := rfl

@[simp] theorem State.readValue_bufRead8 (s : State) (a : Word) :
    s.readValue (bufRead 8 a) = leWordOf (s.readBuffer a.toNat 1).1 := rfl

@[simp] theorem State.readValue_bufRead32 (s : State) (a : Word) :
    s.readValue (bufRead 32 a) = leWordOf (s.readBuffer a.toNat 4).1 := rfl

@[simp] theorem State.afterRead_bufRead8 (s : State) (a : Word) :
    s.afterRead (bufRead 8 a) = { s with draws := (s.readBuffer a.toNat 1).2 } := rfl

/-- The window is open exactly while the word of EXPAND or KSCLR executes (70_reset_and_hazards.md R381). -/
theorem State.windowOpen_eq_false (s : State) (h : ¬ (s.busy = true ∧ scheduleCommand s.cur.word = true)) :
    s.windowOpen = false := by
  unfold State.windowOpen
  cases hb : s.busy <;> cases hc : scheduleCommand s.cur.word <;> simp_all

/-! What an abandoned command leaves (70_reset_and_hazards.md R373). -/

/-- The region of an abandoned command ends within BUF, or is empty. -/
theorem State.abandonedRegion_within (s : State) :
    s.abandonedRegion.2 = 0 ∨ s.abandonedRegion.1 + s.abandonedRegion.2 ≤ s.bufSize := by
  unfold State.abandonedRegion
  split
  · split <;> simp <;> omega
  · simp

/-- A reset leaves every byte outside that region, and gives every byte inside it some value. -/
theorem State.abandon_read (s : State) (h : s.hazard = false) (x : Nat) :
    s.abandon.mem.read x =
      if s.abandonedRegion.1 ≤ x ∧ x < s.abandonedRegion.1 + s.abandonedRegion.2 then
        (drawBytes s.abandonedRegion.2 s.draws).1[x - s.abandonedRegion.1]?
      else s.mem.read x := by
  simp [State.abandon, h, Memory.read_writeBytes]

end Sys2Proof.Machine
end

