-- ==== Sys2Proof/Tests/Slice0.lean ====
section
/-! SUPPORT. The model's own tests. Expected values are those of spec/95_test_vectors.md, or follow by hand from the rule
named; each test says which. The witnesses at the end show that the hypotheses of the statements can be met together. -/

namespace Sys2Proof.Tests

open Sys2Proof.Machine

/-! ## Helpers -/

/-- An engine after power-on with `ID_VALUE` 0 and `BUF_SIZE` 4096, the size 95_test_vectors.md uses. -/
def base : State := State.resetWith 0 4096

/-- `s` with the latched operands. -/
def latched (s : State) (src dst len : Word) : State := { s with cur := { s.cur with src := src, dst := dst, len := len } }

/-- `s` with bytes in the buffer. -/
def poke (s : State) (a : Nat) (bs : List Byte) : State := { s with mem := s.mem.writeBytes a bs }

/-- `s` with the schedule of a key. -/
def keyed (s : State) (key : List Byte) : State := { s with rk := keyExpansion (Block.ofBytes key), ksv := true }

/-- The next state of an outcome. -/
def nextOf : Host.Outcome State Fault Refusal → Option State
  | .next t => some t
  | .fault _ => none
  | .refused _ => none

/-- ERR and RESULT after a command. -/
def errResult (o : Host.Outcome State Fault Refusal) : Option (Byte × Word) := (nextOf o).map fun t => (t.err, t.result)

/-- `n` bytes of the buffer after a command. -/
def bytesAfter (o : Host.Outcome State Fault Refusal) (a n : Nat) : Option (List Byte) :=
  (nextOf o).bind fun t => t.mem.bytesAt a n

/-- The refusal of an outcome. -/
def refusalOf : Host.Outcome State Fault Refusal → Option Refusal
  | .next _ => none
  | .fault _ => none
  | .refused r => some r

/-- `s` with a host program of one statement. -/
def hosted (s : State) (st : Stmt) : State := { s with host := { program := [st], hpc := 0, reads := [] } }

/-- Bytes 0x00 to 0x0f, the key of FIPS-197 C.1. -/
def keyC1 : List Byte := [0x00, 0x01, 0x02, 0x03, 0x04, 0x05, 0x06, 0x07, 0x08, 0x09, 0x0a, 0x0b, 0x0c, 0x0d, 0x0e, 0x0f]

/-- The plaintext of FIPS-197 C.1. -/
def plainC1 : List Byte := [0x00, 0x11, 0x22, 0x33, 0x44, 0x55, 0x66, 0x77, 0x88, 0x99, 0xaa, 0xbb, 0xcc, 0xdd, 0xee, 0xff]

/-- The ciphertext of FIPS-197 C.1. -/
def encC1 : List Byte := [0x69, 0xc4, 0xe0, 0xd8, 0x6a, 0x7b, 0x04, 0x30, 0xd8, 0xcd, 0xb7, 0x80, 0x70, 0xb4, 0xc5, 0x5a]

/-- The key of FIPS-197 A.1. -/
def keyA1 : List Byte := [0x2b, 0x7e, 0x15, 0x16, 0x28, 0xae, 0xd2, 0xa6, 0xab, 0xf7, 0x15, 0x88, 0x09, 0xcf, 0x4f, 0x3c]

/-! ## Well-formedness: each check refuses an ill-formed term -/

/-- RSV not zero (R120). -/
theorem test_wf_reserved_field_refused : CmdFormat.wf { opc := 0x02, rsv := 0x000001 } = false := by decide

/-- The first and the last reserved code (R123). -/
theorem test_wf_reserved_opcode_refused :
    CmdFormat.wf { opc := 0x07, rsv := 0 } = false ∧ CmdFormat.wf { opc := 0xFF, rsv := 0 } = false := by decide

/-- Every command is well formed and its word too. -/
theorem test_wf_commands_accepted : ∀ i : Instr, i.wf = true ∧ (fieldsOf (encode i)).wf = true := by
  intro i; cases i <;> decide

/-- Each check on a transaction refuses (R293, R296; H15, H16 of 95_test_vectors.md section 6). -/
theorem test_malformed_transactions_refused :
    Txn.refusal 4096 { regRead 0x000 with width := 8 } = some .registerWidth ∧
    Txn.refusal 4096 (regRead 0x002) = some .registerAlignment ∧
    Txn.refusal 4096 (regRead 0x1000) = some .registerOffset ∧
    Txn.refusal 4096 (bufRead 16 0x000) = some .bufferWidth ∧
    Txn.refusal 4096 (bufRead 32 0x002) = some .bufferAlignment ∧
    Txn.refusal 4096 (bufRead 8 0x1000) = some .bufferRange ∧
    Txn.refusal 4096 (bufRead 32 0x1000) = some .bufferRange ∧
    Txn.refusal 4096 (bufWrite 8 0xFFF 0) = none ∧ Txn.refusal 4096 (bufWrite 32 0xFFC 0) = none ∧
    Txn.refusal 4096 (regWrite 0xFFC 0) = none := by decide

/-! ## Decoding: words written out bit by bit, RSV then OPC (R120, R123) -/

theorem test_decode_nop : decode 0b00000000000000000000000000000000#32 = .ok .nop := by decide
theorem test_decode_expand : decode 0b00000000000000000000000000000001#32 = .ok .expand := by decide
theorem test_decode_encrypt : decode 0b00000000000000000000000000000010#32 = .ok .encrypt := by decide
theorem test_decode_decrypt : decode 0b00000000000000000000000000000011#32 = .ok .decrypt := by decide
theorem test_decode_pad : decode 0b00000000000000000000000000000100#32 = .ok .pad := by decide
theorem test_decode_unpad : decode 0b00000000000000000000000000000101#32 = .ok .unpad := by decide
theorem test_decode_ksclr : decode 0b00000000000000000000000000000110#32 = .ok .ksclr := by decide

/-- The illegal words of 95_test_vectors.md section 5. -/
theorem test_decode_illegal :
    decode 0x00000007 = .error .reservedOpcode ∧ decode 0x000000FF = .error .reservedOpcode ∧
    decode 0x00000100 = .error .reservedField ∧ decode 0x00000102 = .error .reservedField ∧
    decode 0x80000000 = .error .reservedField ∧ decode 0xFFFFFFFF = .error .reservedField := by decide

/-- The numbering of spec/opcode_table.json is the word's own. -/
theorem test_decode_table_word :
    decodeTableWord 32 2 = some .encrypt ∧ decodeTableWord 32 6 = some .ksclr ∧ decodeTableWord 32 0x102 = none ∧
    decodeTableWord 8 3 = some .decrypt := by decide

/-! ## The field, the S-box and the round primitives (95_test_vectors.md section 4) -/

theorem test_xtime : [0x57, 0xAE, 0x47, 0x8E, 0x80, 0x00, 0x01, 0xFF].map xtime =
    [0xAE, 0x47, 0x8E, 0x07, 0x1B, 0x00, 0x02, 0xE5] := by decide

theorem test_gmul :
    gmul 0x57 0x83 = 0xC1 ∧ gmul 0x57 0x13 = 0xFE ∧ gmul 0x02 0x87 = 0x15 ∧ gmul 0x03 0x6E = 0xB2 ∧
    gmul 0x0E 0x0E = 0x54 ∧ gmul 0xFF 0xFF = 0x13 ∧ gmul 0x53 0xCA = 0x01 := by decide

theorem test_sBox : [0x00, 0x01, 0x53, 0x10, 0xFF, 0x7C].map sBox = [0x63, 0x7C, 0xED, 0xCA, 0x16, 0x10] := by decide

theorem test_invSBox : [0x63, 0xED, 0x00, 0x16, 0x52].map invSBox = [0x00, 0x53, 0x52, 0xFF, 0x48] := by decide

theorem test_shiftRows :
    (shiftRows (Block.ofBytes keyC1)).toBytes =
      [0x00, 0x05, 0x0a, 0x0f, 0x04, 0x09, 0x0e, 0x03, 0x08, 0x0d, 0x02, 0x07, 0x0c, 0x01, 0x06, 0x0b] ∧
    (invShiftRows (Block.ofBytes keyC1)).toBytes =
      [0x00, 0x0d, 0x0a, 0x07, 0x04, 0x01, 0x0e, 0x0b, 0x08, 0x05, 0x02, 0x0f, 0x0c, 0x09, 0x06, 0x03] := by decide

theorem test_mixColumn :
    mixColumn ⟨0xdb, 0x13, 0x53, 0x45⟩ = ⟨0x8e, 0x4d, 0xa1, 0xbc⟩ ∧
    mixColumn ⟨0x2d, 0x26, 0x31, 0x4c⟩ = ⟨0x4d, 0x7e, 0xbd, 0xf8⟩ ∧
    invMixColumn ⟨0x9f, 0xdc, 0x58, 0x9d⟩ = ⟨0xf2, 0x0a, 0x22, 0x5c⟩ ∧
    invMixColumn ⟨0xd5, 0xd5, 0xd7, 0xd6⟩ = ⟨0xd4, 0xd4, 0xd4, 0xd5⟩ := by decide

/-- The first round of the trace of FIPS-197 C.1. -/
theorem test_first_round :
    (fullRound (addRoundKey (Block.ofBytes plainC1) (Block.ofBytes keyC1)) (expandedKey (Block.ofBytes keyC1) 1)).toBytes =
      [0x89, 0xd8, 0x10, 0xe8, 0x85, 0x5a, 0xce, 0x68, 0x2d, 0x18, 0x43, 0xd8, 0xcb, 0x12, 0x8f, 0xe4] := by decide +kernel

/-! ## The commands -/

/-- NOP keeps RESULT and completes with code 0 (R260). -/
theorem test_nop : (nextOf (exec .nop { base with busy := true, err := 5, result := 7 })).map
    (fun t => (t.err, t.result, t.busy, t.done)) = some (0, 7, false, true) := by decide

/-- EXPAND of the key of FIPS-197 A.1 ending exactly at BUF_SIZE; the window words at 0x100 and 0x1A0 (section 3). -/
theorem test_expand_window :
    (nextOf (exec .expand (latched (poke base 0xFF0 keyA1) 0xFF0 0 16))).map
      (fun t => (t.err, t.result, t.ksv, t.readReg (.rkw 0), t.readReg (.rkw 40)))
      = some (0x00, 10, true, 0x16157E2B, 0xA8F914D0) := by decide +kernel

/-- The length is checked before the range (section 3). -/
theorem test_expand_checks :
    errResult (exec .expand (latched base 0xFF1 0 15)) = some (0x01, 0) ∧
    errResult (exec .expand (latched base 0x000 0 17)) = some (0x01, 0) ∧
    errResult (exec .expand (latched base 0xFF1 0 16)) = some (0x05, 0) := by decide +kernel

/-- P1: two blocks under the zero key, a zero block and a padding block. -/
theorem test_encrypt_two_blocks :
    bytesAfter (exec .encrypt (latched (keyed (poke base 0x100 (List.replicate 16 0x00 ++ List.replicate 16 0x10))
      (List.replicate 16 0x00)) 0x100 0x200 32)) 0x200 32 = some
      [0x66, 0xe9, 0x4b, 0xd4, 0xef, 0x8a, 0x2c, 0x3b, 0x88, 0x4c, 0xfa, 0x59, 0xca, 0x34, 0x2b, 0x2e,
       0x01, 0x43, 0xdb, 0x63, 0xee, 0x66, 0xb0, 0xcd, 0xff, 0x9f, 0x69, 0x91, 0x76, 0x80, 0x15, 0x1e] := by decide +kernel

/-- The rows of the operand-check table of section 4. -/
theorem test_encrypt_checks :
    [(0x010, 0x100, 16), (0x018, 0x100, 16)].map (fun p : Word × Word × Word =>
      errResult (exec .encrypt (latched base p.1 p.2.1 p.2.2))) = [some (0x03, 0), some (0x03, 0)] ∧
    [(0x018, 0x100, 16), (0x010, 0x108, 16), (0x010, 0x100, 8), (0x018, 0xFF0, 32), (0x010, 0xFF0, 32),
      (0xFF0, 0x000, 32), (0x010, 0x000, 32), (0x000, 0x010, 32), (0x000, 0x000, 0), (0x1000, 0x000, 0),
      (0x1010, 0x000, 0)].map (fun p : Word × Word × Word =>
      errResult (exec .encrypt (latched { base with ksv := true, result := 9 } p.1 p.2.1 p.2.2))) =
    [some (0x06, 9), some (0x06, 9), some (0x06, 9), some (0x06, 9), some (0x05, 9), some (0x05, 9), some (0x07, 9),
      some (0x07, 9), some (0x00, 0), some (0x00, 0), some (0x05, 9)] := by decide +kernel

/-- P4: the tampered ciphertext, decrypted. -/
theorem test_decrypt_tampered :
    bytesAfter (exec .decrypt (latched (keyed (poke base 0x80
      [0x94, 0xe1, 0x1c, 0x4e, 0x7b, 0x21, 0xb9, 0xe6, 0x6c, 0x00, 0x82, 0xa5, 0x08, 0x96, 0x04, 0xeb]) keyC1)
      0x80 0xC0 16)) 0xC0 16 = some
      [0x59, 0x07, 0x0a, 0x60, 0xee, 0x6a, 0xe9, 0x35, 0xdc, 0xb5, 0x2b, 0x51, 0xc5, 0x8f, 0x42, 0x4a] := by decide +kernel

/-- FIPS-197 C.1 decrypted in place. -/
theorem test_decrypt_in_place :
    bytesAfter (exec .decrypt (latched (keyed (poke base 0x10 encC1) keyC1) 0x10 0x10 16)) 0x10 16 = some plainC1 := by
  decide +kernel

/-- "Hello": eleven bytes 0x0b, RESULT 16, the message bytes as they were (section 2). -/
theorem test_pad_hello :
    errResult (exec .pad (latched (poke base 0x40 [0x48, 0x65, 0x6c, 0x6c, 0x6f]) 0x40 0 5)) = some (0x00, 16) ∧
    bytesAfter (exec .pad (latched (poke base 0x40 [0x48, 0x65, 0x6c, 0x6c, 0x6f]) 0x40 0 5)) 0x40 16 = some
      [0x48, 0x65, 0x6c, 0x6c, 0x6f, 0x0b, 0x0b, 0x0b, 0x0b, 0x0b, 0x0b, 0x0b, 0x0b, 0x0b, 0x0b, 0x0b] := by decide +kernel

/-- Lengths 0, 16, 31 of V-PAD and its range corner cases. -/
theorem test_pad_lengths_and_range :
    [(0x100, 0), (0x100, 16), (0x100, 31), (0xFF0, 0), (0xFF0, 1), (0xFF1, 0), (0xFFFFFFFF, 0xFFFFFFFF)].map
      (fun p : Word × Word => errResult (exec .pad (latched base p.1 0 p.2))) =
    [some (0x00, 16), some (0x00, 32), some (0x00, 32), some (0x00, 16), some (0x00, 16), some (0x05, 0),
      some (0x05, 0)] := by decide +kernel

/-- Rows of V-UNPAD: empty, n = 0, a whole block, n = 17 above and at the length, a differing byte, n = 3, "Hello". -/
theorem test_unpad_rows :
    [[], List.replicate 16 0x00, List.replicate 16 0x10, List.replicate 16 0x11, List.replicate 17 0x11,
      List.replicate 12 0x00 ++ [0x00, 0x03, 0x02, 0x03], List.replicate 12 0x00 ++ [0x00, 0x03, 0x03, 0x03],
      [0x48, 0x65, 0x6c, 0x6c, 0x6f] ++ List.replicate 11 0x0b, [0x01], [0x02]].map
      (fun l : List Byte => errResult (exec .unpad
        (latched { poke base 0x100 l with result := 99 } 0x100 0 (BitVec.ofNat 32 l.length)))) =
    [some (0x00, 0), some (0x02, 99), some (0x00, 0), some (0x02, 99), some (0x00, 0), some (0x02, 99), some (0x00, 13),
      some (0x00, 5), some (0x00, 0), some (0x02, 99)] := by decide +kernel

/-- The range is checked first (V-UNPAD). -/
theorem test_unpad_range : errResult (exec .unpad (latched base 0xFF8 0 16)) = some (0x05, 0) := by decide +kernel

/-- KSCLR: RK zero, KSV 0, RESULT unchanged (section 3). -/
theorem test_ksclr :
    (nextOf (exec .ksclr { keyed base keyC1 with result := 16 })).map
      (fun t => (t.err, t.result, t.ksv, t.rk == zeroKeys, t.readReg (.rkw 40))) = some (0x00, 16, false, true, 0) := by
  decide +kernel

/-! ## The ports (95_test_vectors.md section 6) -/

/-- H1 to H4. -/
theorem test_read_only_registers :
    base.readValue (regRead 0x024) = 0x0000000A ∧ base.readValue (regRead 0x028) = 0x00001000 ∧
    base.readValue (regRead 0x02C) = 0 ∧ base.afterWrite (regWrite 0x0FC 0x12345678) = base ∧
    base.afterWrite (regWrite 0x020 5) = base := by decide

/-- H6 to H10: the interrupt output, cleared by DONE, IE and the soft reset, not by a write to BUSY. -/
theorem test_interrupt :
    State.irq { base with ie := true, done := true } = true ∧
    (State.afterWrite { base with ie := true, done := true } (regWrite 0x008 0x2)).irq = false ∧
    (State.afterWrite { base with ie := true, done := true } (regWrite 0x008 0x1)).irq = true ∧
    (State.afterWrite { base with ie := true, done := true } (regWrite 0x004 0)).irq = false ∧
    (State.afterWrite { base with ie := true, done := true } (regWrite 0x004 0)).statusWord = 2 ∧
    (State.afterWrite { base with ie := true, done := true } (regWrite 0x004 3)).ctrlWord = 0 := by decide

/-- H11 and H12: a second command word while busy is dropped, OVR rises and the host clears it. -/
theorem test_overrun :
    (State.afterWrite (base.accept 2) (regWrite 0x010 0)).cmd = 2 ∧
    (State.afterWrite (base.accept 2) (regWrite 0x010 0)).statusWord = 0x9 ∧
    (State.afterWrite { base with ovr := true } (regWrite 0x008 0x8)).ovr = false := by decide

/-- H14: a buffer write while busy sets HAZARD. -/
theorem test_hazard : (State.afterWrite (base.accept 2) (bufWrite 8 0 0x55)).hazard = true := by decide

/-- H17: a word write is little-endian. -/
theorem test_little_endian :
    [0, 1, 2, 3].map (fun a => (State.afterWrite base (bufWrite 32 0 0x11223344)).readValue (bufRead 8 a))
      = [0x44, 0x33, 0x22, 0x11] := by decide

/-- H20: bytes outside the destination of the abandoned ENCRYPT stay. -/
theorem test_abandon :
    (State.warmReset { poke base 0x1FF [0x77] with
      busy := true, cur := { word := 2, opc := 2, src := 0, dst := 0x200, len := 32 } }).mem.read 0x1FF = some 0x77 := by
  decide +kernel

/-- The statements of `encrypt 0x100, 0x200, 32` (P1), its wait loop standing at index 4. -/
theorem test_pseudo_instruction :
    assemble (encryptAt 0x100 0x200 32) = some
      [.txn (regWrite 0x014 0x100), .txn (regWrite 0x018 0x200), .txn (regWrite 0x01C 0x20), .txn (regWrite 0x010 0x2),
       .brs 0x008 0x1 4] := by decide

/-- The very next step runs the placed command: EXPAND with LEN 0 completes with code 1, an illegal word with code 4. -/
theorem test_withFetchWord_runs :
    errResult (step (base.withFetchWord 32 1)) = some (0x01, 0) ∧
    errResult (step (base.withFetchWord 32 0x102)) = some (0x04, 0) := by decide +kernel

/-! ## Witnesses: the hypotheses of the statements, met together, each clause at a boundary of its range -/

/-- A busy engine with the word `w` latched and its own move next. -/
def engaged (w : Word) : State := { base.accept w with turns := [.engine] }

theorem test_witness_StepRunsTheDecodedCommand : ∀ i : Instr,
    (engaged (encode i)).nextTurn = .engine ∧ (engaged (encode i)).busy = true ∧ (engaged (encode i)).hazard = false ∧
    i.wf = true ∧ decode (engaged (encode i)).cur.word = .ok i := by intro i; cases i <;> decide

theorem test_witness_IllegalWordIsAcceptedAndCompletes :
    base.busy = false ∧ base.hazard = false ∧
    (0x00000100#32).extractLsb' 8 24 ≠ 0 ∧ (0x80000000#32).extractLsb' 8 24 ≠ 0 ∧
    0x07 ≤ ((0x00000007#32).extractLsb' 0 8).toNat ∧ 0x07 ≤ ((0x000000FF#32).extractLsb' 0 8).toNat := by decide

theorem test_witness_AcceptanceLatchesOperands : base.busy = false ∧ (base.accept 2).busy = true := by decide

theorem test_witness_AcceptedCommandCompletes :
    (engaged 7).busy = true ∧ (engaged 7).nextTurn = .engine ∧
    (base.accept 0).busy = true ∧ (base.accept 0).turns = [] := by decide

/-- Every command answers a next state, so `exec i s = next t` can be met (CommandsReadTheLatchOnly, CommandFrame,
InterruptIsEnableAndDone, UnreadOperandsDoNotMatter). -/
theorem test_witness_commands_answer : ∀ i : Instr, (nextOf (exec i base)).isSome = true := by
  intro i; cases i <;> decide +kernel

theorem test_witness_DecoderFollowsOpcodeMap :
    (0x00000102#32).extractLsb' 8 24 ≠ 0 ∧ (0x000000FF#32).extractLsb' 8 24 = 0 ∧
    0x07 ≤ ((0x00000007#32).extractLsb' 0 8).toNat ∧ (0x00000006#32).extractLsb' 0 8 = 0x06 := by decide

/-- The three clauses: LEN 15 and 17; LEN 16 one byte past the end; LEN 16 ending at BUF_SIZE, written. -/
theorem test_witness_ExpandFillsTheSchedule :
    (latched base 0 0 15).cur.len.toNat ≠ 16 ∧ (latched base 0 0 17).cur.len.toNat ≠ 16 ∧
    (latched base 0xFF1 0 16).bufSize < (latched base 0xFF1 0 16).cur.src.toNat + 16 ∧
    (latched base 0xFF0 0 16).cur.src.toNat + 16 ≤ (latched base 0xFF0 0 16).bufSize ∧
    (poke base 0xFF0 keyC1).mem.bytesAt 0xFF0 16 = some keyC1 := by decide +kernel

theorem test_witness_PadAppendsPaddingBytes :
    (latched base 0xFF1 0 0).bufSize < 0xFF1 + 0 + (16 - 0 % 16) ∧ 0xFF0 + 0 + (16 - 0 % 16) ≤ (latched base 0xFF0 0 0).bufSize ∧
    0xFF0 + 15 + (16 - 15 % 16) ≤ base.bufSize := by decide

/-- The bytes `l` at 0x100, latched as UNPAD's region. -/
def region (l : List Byte) : State := latched (poke base 0x100 l) 0x100 0 (BitVec.ofNat 32 l.length)

/-- `len` bytes at 0x100 latched as UNPAD's region, of which only the last ones, `l`, are written. -/
def tailRegion (len : Nat) (l : List Byte) : State :=
  latched (poke base (0x100 + len - l.length) l) 0x100 0 (BitVec.ofNat 32 len)

/-- The range clause; the empty clause at the very end; a last byte 0; one above the length; a differing byte with the one
between never written; and a final run of the whole length and one behind a prefix never written. -/
theorem test_witness_UnpadValidatesPadding :
    ((latched base 0xFF1 0 16).bufSize < (latched base 0xFF1 0 16).cur.src.toNat + (latched base 0xFF1 0 16).cur.len.toNat) ∧
    ((latched base 0x1000 0 0).cur.src.toNat + 0 ≤ (latched base 0x1000 0 0).bufSize) ∧
    ((region [0x00]).mem.read (0x100 + 1 - 1) = some 0x00) ∧
    ((region [0x02]).mem.read (0x100 + 1 - 1) = some 0x02 ∧ 1 < (0x02#8).toNat) ∧
    ((poke (tailRegion 8 [0x03]) 0x105 [0x04]).mem.read (0x100 + 8 - 1) = some 0x03 ∧
      (poke (tailRegion 8 [0x03]) 0x105 [0x04]).mem.read (0x100 + 8 - 2) = none ∧
      (poke (tailRegion 8 [0x03]) 0x105 [0x04]).mem.read (0x100 + 8 - 3) = some 0x04) ∧
    (∀ k, k < 2 → (region [0x02, 0x02]).mem.read (0x100 + 2 - (k + 1)) = some 0x02) ∧
    (tailRegion 16 [0x02, 0x02]).mem.read 0x100 = none ∧
    (∀ k, k < 2 → (tailRegion 16 [0x02, 0x02]).mem.read (0x100 + 16 - (k + 1)) = some 0x02) := by decide +kernel

theorem test_witness_UnpadCompletesOnAnyData :
    (latched base 0xFF0 0 16).cur.src.toNat + (latched base 0xFF0 0 16).cur.len.toNat ≤ (latched base 0xFF0 0 16).bufSize := by
  decide

theorem test_witness_SegmenterComputesThePureFunctions :
    (poke base 0x40 [0x48, 0x69]).mem.bytesAt 0x40 2 = some [0x48, 0x69] ∧ 0x40 + (padded [0x48, 0x69]).length ≤ base.bufSize ∧
    0x40 + 2 ≤ base.bufSize ∧
    (nextOf (exec .pad (latched (poke base 0x40 [0x48, 0x69]) 0x40 0 2))).isSome = true := by decide +kernel

theorem test_witness_PadThenUnpadReturnsLength :
    (latched base 0xFF0 0 0).paramsLegal = true ∧ 0xFF0 + 16 * (0 / 16 + 1) ≤ base.bufSize ∧
    (nextOf (exec .pad (latched base 0xFF0 0 0))).isSome = true := by decide +kernel

/-- `BlockChecksInOrder`, clause by clause: no schedule; LEN misaligned by itself; the destination one block past the end;
the overlap of one block out of two. -/
theorem test_witness_BlockChecksInOrder :
    (latched base 0x018 0x100 16).ksv = false ∧
    ((keyed base keyC1).ksv = true ∧ (latched (keyed base keyC1) 0x010 0x100 8).cur.len.toNat % 16 ≠ 0) ∧
    ((latched (keyed base keyC1) 0x010 0xFF0 32).blockChecks = some .range ∧
      (latched base 0x010 0xFF0 32).bufSize < (latched base 0x010 0xFF0 32).cur.dst.toNat + 32) ∧
    ((latched (keyed base keyC1) 0x010 0x000 32).blockChecks = some .overlap ∧
      0x010 + 32 ≤ base.bufSize ∧ (0x010#32).toNat < (0x000#32).toNat + 32 ∧ (0x000#32).toNat < (0x010#32).toNat + 32) := by
  decide +kernel

/-- A block command in place, next to its source, and ending at BUF_SIZE, with a written source. -/
def ready (src dst : Word) : State := latched (keyed (poke base src.toNat plainC1) keyC1) src dst 16

/-- EncryptTransformsEachBlock, DecryptTransformsEachBlock, BlockCommandsCompleteOnAnyData. -/
theorem test_witness_block_commands :
    (ready 0x100 0x100).blockOperandsOk ∧ (ready 0xFF0 0xFE0).blockOperandsOk ∧
    (ready 0xFF0 0xFE0).written 0xFF0 16 = true ∧ 0 < (ready 0xFF0 0xFE0).cur.len.toNat / 16 := by
  refine ⟨?_, ?_, by decide +kernel, by decide⟩ <;> exact (State.blockChecks_eq_none _).1 (by decide +kernel)

theorem test_witness_BlocksAreIndependent :
    (ready 0x100 0x100).blockOperandsOk ∧ (ready 0x020 0x200).blockOperandsOk ∧
    (ready 0x100 0x100).rk = (ready 0x020 0x200).rk ∧
    (ready 0x100 0x100).mem.bytesAt 0x100 16 = some plainC1 ∧ (ready 0x020 0x200).mem.bytesAt 0x020 16 = some plainC1 ∧
    (nextOf (exec .encrypt (ready 0x100 0x100))).isSome = true ∧ (nextOf (exec .encrypt (ready 0x020 0x200))).isSome = true := by
  refine ⟨?_, ?_, by decide +kernel, by decide +kernel, by decide +kernel, by decide +kernel, by decide +kernel⟩ <;>
    exact (State.blockChecks_eq_none _).1 (by decide +kernel)

theorem test_witness_DecryptRestoresEncryptedRegion :
    (ready 0x100 0x200).blockOperandsOk ∧ (ready 0x100 0x200).mem.bytesAt 0x100 16 = some plainC1 ∧
    (nextOf (exec .encrypt (ready 0x100 0x200))).map (fun t =>
      State.blockChecks { t with cur := { t.cur with src := t.cur.dst, dst := 0x300 } }) = some none := by
  refine ⟨(State.blockChecks_eq_none _).1 (by decide +kernel), by decide +kernel, by decide +kernel⟩

/-- LaneOrderDoesNotMatter: one of two lanes takes the block, ten rounds, and writes it. -/
theorem test_witness_LaneOrderDoesNotMatter :
    (ready 0x100 0x200).mem.wf = true ∧ (ready 0x100 0x200).written 0x100 16 = true ∧
    (laneRun { inverse := false, rk := (ready 0x100 0x200).rk, src := 0x100, dst := 0x200 }
      (.take 1 0 :: List.replicate 11 (.advance 1)) (LaneArray.start 2 1 (ready 0x100 0x200).mem 0)).map
      (fun g => (g.finished, g.mem.bytesAt 0x200 16)) = some (true, some encC1) := by decide +kernel

theorem test_witness_FailedCommandChangesNothing :
    (errResult (exec .encrypt base)).map (fun p => p.1 ≠ 0x00) = some True ∧
    (nextOf (exec .encrypt base)).map (·.err) = some 0x03 := by
  refine ⟨?_, by decide⟩
  simp [errResult, nextOf, exec, execEncrypt, State.transformBody, State.blockChecks, base, State.resetWith, State.settle,
    State.complete, ErrCode.code]

/-- BufferFrame: a byte just below and just above the region ENCRYPT stores to, and the empty region of NOP. -/
theorem test_witness_BufferFrame :
    storedRegion .encrypt (ready 0x100 0x200) = (0x200, 16) ∧ storedRegion .pad (latched base 0x40 0 5) = (0x45, 11) ∧
    storedRegion .nop base = (0, 0) := by decide +kernel

theorem test_witness_SBoxMeetsItsDefinition : (0x53#8) ≠ 0 ∧ gmul 0x53 0xCA = 0x01 ∧ gmul 0xFF 0x1C = 0x01 := by decide

theorem test_witness_PublishedVectors :
    (Block.ofBytes keyC1).toBytes = keyC1 ∧ (Block.ofBytes plainC1).toBytes = plainC1 ∧
    (Block.ofBytes encC1).toBytes = encC1 := by decide

/-- RegisterWritesByOffset and RegisterReadsByOffset: the ends of the register space and of the window; a busy NOP leaves
the window readable. -/
theorem test_witness_register_offsets :
    (0x000#32).toNat % 4 = 0 ∧ (0xFFC#32).toNat % 4 = 0 ∧ (0xFFC#32).toNat < 0x1000 ∧
    (0x100 ≤ (0x100#32).toNat ∧ (0x1AC#32).toNat < 0x1B0) ∧ ¬ ((0x1B0#32).toNat < 0x1B0) ∧
    ¬ ((base.accept 0).cur.word = 0x00000001 ∨ (base.accept 0).cur.word = 0x00000006) := by decide

theorem test_witness_WindowIsLittleEndian :
    ¬ (base.busy = true ∧ (base.cur.word = 0x00000001 ∨ base.cur.word = 0x00000006)) ∧ (10 : Nat) < 11 ∧ (3 : Nat) < 4 := by
  decide

/-- MalformedRegisterTransactionsRefused and MalformedBufferTransactionsRefused: the host's move with one statement. -/
theorem test_witness_malformed_transactions :
    (hosted base (.txn (regRead 0x1000))).nextTurn = .host ∧
    (hosted base (.txn (regRead 0x1000))).statement = some (.txn (regRead 0x1000)) ∧
    refusalOf (step (hosted base (.txn (regRead 0x1000)))) = some .registerOffset ∧
    (nextOf (step (hosted base (.txn (regRead 0xFFC))))).isSome = true ∧
    (hosted base (.brs 0x00A 0xFF 7)).statement.bind Stmt.txn? = some (regRead 0x00A) ∧
    refusalOf (step (hosted base (.brs 0x00A 0xFF 7))) = some .registerAlignment ∧
    refusalOf (step (hosted base (.brs 0x1000 0xFF 7))) = some .registerOffset ∧
    (nextOf (step (hosted base (.brs 0xFFC 0xFF 7)))).isSome = true ∧
    refusalOf (step (hosted base (.txn (bufWrite 8 0x1000 0)))) = some .bufferRange ∧
    refusalOf (step (hosted base (.txn (bufWrite 32 0xFFE 0)))) = some .bufferAlignment ∧
    (nextOf (step (hosted base (.txn (bufWrite 8 0xFFF 0))))).isSome = true ∧
    (nextOf (step (hosted base (.txn (bufWrite 32 0xFFC 0))))).isSome = true := by decide

/-- The write clauses at the last offset, and four bytes written one by one. -/
theorem test_witness_BufferWordsAreTheirBytes :
    base.busy = false ∧ base.hazard = false ∧ (0xFFFFFFFC#32).toNat + 4 ≤ 2 ^ 32 ∧
    (poke base 0xFFC [0x44, 0x33, 0x22, 0x11]).mem.bytesAt (0xFFC#32).toNat 4 = some [0x44, 0x33, 0x22, 0x11] ∧
    (poke base 0xFFC [0x44, 0x33, 0x22, 0x11]).readValue (bufRead 32 0xFFC) = 0x11223344 ∧
    (poke base 0xFFC [0x44]).mem.read (0xFFC#32).toNat = some 0x44 := by decide +kernel

/-- A byte never written, and a word of which bytes 0 and 2 are written: the count of open bytes below each. -/
theorem test_witness_UninitialisedReadsAreFresh :
    base.mem.read (0xFFF#32).toNat = none ∧
    (poke (poke base 0x10 [1]) 0x12 [2]).busy = false ∧
    [0, 1, 2, 3, 4].map (fun k => ((List.range k).filter fun j =>
      ((poke (poke base 0x10 [1]) 0x12 [2]).mem.read ((0x10#32).toNat + j)).isNone).length) = [0, 0, 1, 1, 2] ∧
    (State.afterRead (poke (poke base 0x10 [1]) 0x12 [2]) (bufRead 32 0x10)).draws = 2 := by decide +kernel

theorem test_witness_ReadsWhileBusyAreOpen :
    (base.accept 1).busy = true ∧ (base.accept 1).cur.word = 0x00000001 ∧ (base.accept 6).cur.word = 0x00000006 ∧
    (0x100#32).toNat % 4 = 0 ∧ (0x1AC#32).toNat % 4 = 0 ∧ (0x1AC#32).toNat < 0x1B0 := by decide

/-- The host writes the buffer while the engine is busy: HAZARD rises. -/
theorem test_witness_HazardRisesOnBusyBufferWriteOnly :
    (nextOf (step { hosted (base.accept 0) (.txn (bufWrite 8 0 1)) with turns := [.host] })).map (·.hazard) = some true ∧
    State.moveTxn { hosted (base.accept 0) (.txn (bufWrite 8 0 1)) with turns := [.host] } = some (bufWrite 8 0 1) := by
  decide

theorem test_witness_HazardLeavesResultOpen :
    State.nextTurn { engaged 0 with hazard := true } = .engine ∧ decode (engaged 0).cur.word = .ok .nop ∧
    (nextOf (exec .nop { engaged 0 with hazard := true, turns := [] })).isSome = true ∧
    decode (engaged 6).cur.word = .ok .ksclr ∧ (engaged 6).busy = true ∧
    (nextOf (exec .ksclr { engaged 6 with hazard := true, turns := [] })).isSome = true := by decide

/-- AbandonedCommandBytes: ENCRYPT clamped at BUF_SIZE, PAD of the empty message, and EXPAND. -/
theorem test_witness_AbandonedCommandBytes :
    (State.busy { base.accept 2 with cur := { word := 2, opc := 2, src := 0, dst := 0xFF0, len := 32 } } = true ∧
      0xFF0 ≤ 0xFFF ∧ 0xFFF < min (0xFF0 + 32) base.bufSize ∧ ¬ (0x1000 < min (0xFF0 + 32) base.bufSize)) ∧
    ((base.accept 4).cur.opc = 0x04 ∧ (base.accept 4).hazard = false) ∧
    ((base.accept 1).cur.opc ≠ 0x02 ∧ (base.accept 1).cur.opc ≠ 0x03 ∧ (base.accept 1).cur.opc ≠ 0x04) := by decide

/-- The soft reset as the host's statement, with other bits of the data set too, and the two moves of the platform. -/
theorem test_witness_ResetSteps :
    (hosted base (.txn (regWrite 0x004 0x3))).nextTurn = .host ∧
    (hosted base (.txn (regWrite 0x004 0x3))).statement = some (.txn (regWrite 0x004 0x3)) ∧ (0x3#32).getLsbD 1 = true ∧
    State.nextTurn { base with turns := [.hardReset] } = .hardReset ∧
    State.nextTurn { base with turns := [.powerOn] } = .powerOn := by decide

/-- OVR falls by the host's write and by a reset. -/
theorem test_witness_OverrunClearedOnlyByHostOrReset :
    (nextOf (step (hosted { base with ovr := true } (.txn (regWrite 0x008 0x8))))).map (·.ovr) = some false ∧
    (nextOf (step { base with ovr := true, turns := [.hardReset] })).map (·.ovr) = some false := by decide +kernel

theorem test_witness_ScheduleIsImmutable :
    (nextOf (step (engaged 0))).isSome = true ∧ (engaged 0).resetsNext = false ∧ (engaged 0).commandNext = true ∧
    decode (engaged 0).cur.word ≠ .ok .expand ∧ decode (engaged 0).cur.word ≠ .ok .ksclr := by decide

/-- ExecutingCommandIsUndisturbed: the host writes SRC while the engine is busy (H13). -/
theorem test_witness_ExecutingCommandIsUndisturbed :
    (nextOf (step { hosted (base.accept 0) (.txn (regWrite 0x014 0x200)) with turns := [.host] })).map
      (fun t => (t.src, t.cur.src, t.busy)) = some (0x200, 0, true) ∧
    State.resetsNext { hosted (base.accept 0) (.txn (regWrite 0x014 0x200)) with turns := [.host] } = false := by decide

/-- InterruptIsEnableAndDone: data with the bit asked for, alone and among others. -/
theorem test_witness_InterruptIsEnableAndDone :
    (0x2#32).getLsbD 1 = true ∧ (0xFFFFFFFF#32).getLsbD 1 = true ∧ (0xFFFFFFFC#32).getLsbD 0 = false ∧
    base.busy = false := by decide

/-- LanesFinishTheJob: no block, and one block of two whose lane has begun. -/
theorem test_witness_LanesFinishTheJob :
    (LaneArray.start 1 0 [] 0).finished = true ∧
    (laneRun { inverse := false, rk := zeroKeys, src := 0, dst := 0 } [.take 0 1, .advance 0]
      (LaneArray.start 1 2 (poke base 0 (plainC1 ++ plainC1)).mem 0)).map (·.finished) = some false := by decide +kernel

/-- A label defined twice: the branch goes to its first definition, the model's choice (notes/assumptions/25.md). -/
theorem test_label_defined_twice :
    assemble [.label 0, .halt, .label 0, .brs 0x008 0x1 0] = some [.halt, .brs 0x008 0x1 0] := by decide

/-- HostStatements: a branch taken and one not taken, a read, a write, and a halt. -/
theorem test_witness_HostStatements :
    (nextOf (step (hosted { base with err := 3 } (.brs 0x00C 0xFF 7)))).map (·.host.hpc) = some 7 ∧
    (nextOf (step (hosted base (.brs 0x00C 0xFF 7)))).map (·.host.hpc) = some 1 ∧
    (nextOf (step (hosted base (.txn (regRead 0x024))))).map (fun t => (t.host.hpc, t.host.reads)) = some (1, [10]) ∧
    (nextOf (step (hosted base (.txn (regWrite 0x014 0x40))))).map (fun t => (t.host.hpc, t.src)) = some (1, 0x40) ∧
    (nextOf (step (hosted base .halt))).map (·.host.hpc) = some 0 ∧ base.statement = none := by decide

/-- The invariants hold with a schedule in place and of a state that steps on (BufferInvariantKept,
LifeCycleInvariantKept, ScheduleInvariantKept, ErrorInvariantKept). -/
theorem test_witness_invariants :
    (keyed (poke base 0xFFF [1]) keyC1).BufferInv ∧ (engaged 7).LifeCycleInv ∧
    (keyed (poke base 0xFFF [1]) keyC1).ScheduleInv ∧ State.ErrorInv { base with err := 0x07 } ∧
    (nextOf (step (keyed (poke base 0xFFF [1]) keyC1))).isSome = true ∧ (nextOf (step (engaged 7))).isSome = true := by
  refine ⟨⟨by decide +kernel, by decide +kernel, by decide, by decide⟩, ⟨by decide, by decide, by decide⟩,
    fun _ => ⟨fun _ => ⟨Block.ofBytes keyC1, rfl⟩, fun h => absurd h (by decide)⟩, fun _ => by decide, by decide +kernel,
    by decide⟩

end Sys2Proof.Tests
end

section
/-! The buffer invariant: what each part of a step does to BUF, and that every step keeps the invariant (R9, R47, R80,
R380). BUF only ever stays as it is, becomes wholly open, or takes a string of bytes that ends within BUF_SIZE. -/

namespace Sys2Proof.Machine

/-! The two clauses of the invariant that speak of the list of bytes. -/

theorem Memory.within_iff (m : Memory) (n : Nat) : m.within n = true ↔ ∀ c ∈ m, c.1 < n := by
  simp [Memory.within]

/-- The empty string may be written at any address: it stores nothing. -/
theorem Memory.within_writeBytes (m : Memory) (a n : Nat) (bs : List Byte) (hm : m.within n = true)
    (hbs : bs.length = 0 ∨ a + bs.length ≤ n) : (m.writeBytes a bs).within n = true := by
  rw [Memory.within_iff] at hm ⊢
  intro c hc
  rcases Memory.mem_writeBytes bs m a c hc with hin | hold
  · omega
  · exact hm c hold

theorem State.paramsLegal_congr {s t : State} (hsize : t.bufSize = s.bufSize) : t.paramsLegal = s.paramsLegal := by
  simp only [State.paramsLegal, hsize]

/-! The three things that can happen to BUF, each of which keeps the invariant. -/

/-- The invariant reads BUF, BUF_SIZE and HAZARD only. -/
theorem State.BufferInv.congr {s t : State} (h : s.BufferInv) (hmem : t.mem = s.mem) (hsize : t.bufSize = s.bufSize)
    (hhaz : t.hazard = s.hazard) : t.BufferInv := by
  unfold State.BufferInv
  rwa [hmem, hsize, hhaz, State.paramsLegal_congr hsize]

/-- BUF becomes wholly open, whatever HAZARD is. -/
theorem State.BufferInv.of_mem_nil {s t : State} (h : s.BufferInv) (hmem : t.mem = []) (hsize : t.bufSize = s.bufSize) :
    t.BufferInv := by
  obtain ⟨-, -, hlegal, -⟩ := h
  refine ⟨?_, ?_, ?_, fun _ => hmem⟩
  · rw [hmem]; rfl
  · rw [hmem]; rfl
  · rwa [State.paramsLegal_congr hsize]

/-- A string of bytes is stored within BUF_SIZE while no hazard stands. -/
theorem State.BufferInv.of_writeBytes {s t : State} (h : s.BufferInv) (a : Nat) (bs : List Byte)
    (hfits : bs.length = 0 ∨ a + bs.length ≤ s.bufSize) (hmem : t.mem = s.mem.writeBytes a bs)
    (hsize : t.bufSize = s.bufSize) (hhaz : t.hazard = false) : t.BufferInv := by
  obtain ⟨hwf, hin, hlegal, -⟩ := h
  refine ⟨?_, ?_, ?_, ?_⟩
  · rw [hmem]; exact Memory.wf_writeBytes bs s.mem a hwf
  · rw [hmem, hsize]; exact Memory.within_writeBytes s.mem a s.bufSize bs hin hfits
  · rwa [State.paramsLegal_congr hsize]
  · intro hset; simp [hhaz] at hset

theorem State.BufferInv.takeTurn {s : State} (h : s.BufferInv) : s.takeTurn.BufferInv := h.congr rfl rfl rfl

/-! Resets. -/

/-- A reset fills the region of the abandoned command, which ends within BUF, or is lost in the open buffer (R373). -/
theorem State.BufferInv.abandon {s : State} (h : s.BufferInv) : s.abandon.BufferInv := by
  cases hhaz : s.hazard with
  | true => exact h.congr (by simp [State.abandon, hhaz]) rfl rfl
  | false =>
    refine h.of_writeBytes s.abandonedRegion.1 (drawBytes s.abandonedRegion.2 s.draws).1 ?_ ?_ rfl hhaz
    · simpa using State.abandonedRegion_within s
    · simp [State.abandon, hhaz]

theorem State.BufferInv.warmReset {s : State} (h : s.BufferInv) : s.warmReset.BufferInv := h.abandon.congr rfl rfl rfl

theorem State.BufferInv.powerOnReset {s : State} (h : s.BufferInv) : s.powerOnReset.BufferInv := h.of_mem_nil rfl rfl

/-! The engine's move. -/

/-- No command touches BUF_SIZE or HAZARD. -/
theorem exec_bufSize_hazard {i : Instr} {s t : State} (h : exec i s = .next t) :
    t.bufSize = s.bufSize ∧ t.hazard = s.hazard := by
  rcases exec_cases i s with ⟨e, d, -, -, hx⟩ | ⟨m, d, r, k, v, hx, -⟩
  · obtain rfl := Host.Outcome.next.inj (hx.symm.trans h)
    exact ⟨rfl, rfl⟩
  · obtain rfl := Host.Outcome.next.inj (hx.symm.trans h)
    exact ⟨rfl, rfl⟩

/-- A command without a stored region leaves BUF. -/
theorem exec_mem_of_not_storesBuffer {i : Instr} {s t : State} (hi : storesBuffer i = false) (h : exec i s = .next t) :
    t.mem = s.mem := by
  rcases exec_cases i s with ⟨e, d, -, -, hx⟩ | ⟨m, d, r, k, v, hx, hm, -⟩
  · obtain rfl := Host.Outcome.next.inj (hx.symm.trans h)
    rfl
  · obtain rfl := Host.Outcome.next.inj (hx.symm.trans h)
    exact hm hi

/-- A block command leaves BUF or fills its destination region, which lies within BUF (R261 to R263). -/
theorem State.settle_transformBody_mem (s : State) (f : Block → Block) :
    (s.settle (s.transformBody f)).mem = s.mem ∨
    ∃ bs, bs.length = s.lenBytes ∧ s.dstOffset + s.lenBytes ≤ s.bufSize ∧
      (s.settle (s.transformBody f)).mem = s.mem.writeBytes s.dstOffset bs := by
  rcases State.transformBody_cases s f with ⟨e, -, hbody⟩ | ⟨⟨-, ⟨-, -, hlen⟩, ⟨-, hdst⟩, -⟩, hbody⟩
  · left; rw [hbody]; rfl
  · right
    refine ⟨_, ?_, hdst, by rw [hbody]; rfl⟩
    rw [length_transformBlocks]
    omega

/-- PAD leaves BUF or stores its padding bytes behind the message, within BUF (R155). -/
theorem State.settle_padBody_mem (s : State) :
    (s.settle s.padBody).mem = s.mem ∨
    ∃ bs, bs.length = padLength s.lenBytes ∧ s.srcOffset + s.lenBytes + padLength s.lenBytes ≤ s.bufSize ∧
      (s.settle s.padBody).mem = s.mem.writeBytes (s.srcOffset + s.lenBytes) bs := by
  rcases State.padBody_cases s with ⟨-, hbody⟩ | ⟨hfits, hbody⟩
  · left; rw [hbody]; rfl
  · right
    exact ⟨_, length_paddingBytes _, by omega, by rw [hbody]; rfl⟩

/-- A command leaves BUF or fills exactly its stored region, which then lies within BUF. -/
theorem exec_mem_cases {i : Instr} {s t : State} (h : exec i s = .next t) :
    t.mem = s.mem ∨
    ∃ bs, bs.length = (storedRegion i s).2 ∧ (storedRegion i s).1 + (storedRegion i s).2 ≤ s.bufSize ∧
      t.mem = s.mem.writeBytes (storedRegion i s).1 bs := by
  cases i with
  | encrypt =>
    obtain rfl := Host.Outcome.next.inj h
    exact State.settle_transformBody_mem s _
  | decrypt =>
    obtain rfl := Host.Outcome.next.inj h
    exact State.settle_transformBody_mem s _
  | pad =>
    obtain rfl := Host.Outcome.next.inj h
    exact State.settle_padBody_mem s
  | nop => exact .inl (exec_mem_of_not_storesBuffer rfl h)
  | expand => exact .inl (exec_mem_of_not_storesBuffer rfl h)
  | unpad => exact .inl (exec_mem_of_not_storesBuffer rfl h)
  | ksclr => exact .inl (exec_mem_of_not_storesBuffer rfl h)

/-- The latched word means a command, or completes as illegal (R302). -/
theorem State.runLatched_cases {s t : State} (h : s.runLatched = .next t) :
    (∃ i, decode s.cur.word = .ok i ∧ exec i s = .next t) ∨ t = s.illegal := by
  unfold State.runLatched at h
  split at h
  · next i hi => exact .inl ⟨i, hi, h⟩
  · exact .inr (Host.Outcome.next.inj h).symm

theorem State.runLatched_bufSize {s t : State} (h : s.runLatched = .next t) : t.bufSize = s.bufSize := by
  rcases State.runLatched_cases h with ⟨i, -, hx⟩ | rfl
  · exact (exec_bufSize_hazard hx).1
  · rfl

theorem State.BufferInv.exec {i : Instr} {s t : State} (h : s.BufferInv) (hhaz : s.hazard = false)
    (hx : exec i s = .next t) : t.BufferInv := by
  obtain ⟨hsize, hkeep⟩ := exec_bufSize_hazard hx
  rcases exec_mem_cases hx with hmem | ⟨bs, hlen, hfits, hmem⟩
  · exact h.congr hmem hsize hkeep
  · exact h.of_writeBytes _ bs (.inr (hlen ▸ hfits)) hmem hsize (hkeep.trans hhaz)

/-- The engine's completion: the command's own writes, or after a hazard an open buffer (R380). -/
theorem State.BufferInv.runLatched {s t : State} (h : s.BufferInv) (w : Word) (hrun : s.runLatched = .next t) :
    (if s.hazard then t.taint w else t).BufferInv := by
  cases hhaz : s.hazard with
  | true =>
    rw [if_pos rfl]
    exact h.of_mem_nil rfl ((t.taint_bufSize w).trans (State.runLatched_bufSize hrun))
  | false =>
    rw [if_neg Bool.false_ne_true]
    rcases State.runLatched_cases hrun with ⟨i, -, hx⟩ | rfl
    · exact h.exec hhaz hx
    · exact h.congr rfl rfl rfl

/-! The host's move. -/

theorem State.BufferInv.writeReg {s : State} (h : s.BufferInv) (r : Reg) (v : Word) : (s.writeReg r v).BufferInv := by
  rcases writeReg_cases s r v with ⟨-, -, hw⟩ | ⟨-, -, hw⟩ | ⟨-, hw⟩ | ⟨-, -, hw⟩ | ⟨-, -, hw⟩ | ⟨x, y, z, hw⟩
  · rw [hw]; exact h.warmReset
  all_goals rw [hw]; exact h.congr rfl rfl rfl

theorem State.BufferInv.writeBuffer {s : State} (h : s.BufferInv) (a : Nat) (bs : List Byte)
    (hfits : a + bs.length ≤ s.bufSize) : (s.writeBuffer a bs).BufferInv := by
  rcases writeBuffer_cases s a bs with ⟨-, hw⟩ | ⟨-, -, hw⟩ | ⟨-, hhaz, hw⟩
  · rw [hw]; exact h.of_mem_nil rfl rfl
  · rw [hw]; exact h
  · rw [hw]; exact h.of_writeBytes a bs (.inr hfits) rfl rfl hhaz

/-- A buffer transaction the model does not refuse moves bytes of BUF only (R296). -/
theorem Txn.byteCount_within_of_refusal_none {t : Txn} {n : Nat} (hsp : t.space = .buf) (h : t.refusal n = none) :
    t.offset.toNat + t.byteCount ≤ n := by
  simp only [Txn.refusal, hsp] at h
  unfold Txn.byteCount
  split_ifs at h ⊢ <;> omega

theorem length_take_byteCount (t : Txn) (v : Word) : ((leBytes v).take t.byteCount).length = t.byteCount := by
  have hle : t.byteCount ≤ 4 := by unfold Txn.byteCount; split <;> omega
  simpa [leBytes] using hle

theorem State.BufferInv.perform {s : State} (h : s.BufferInv) (t : Txn) (hr : t.refusal s.bufSize = none) :
    (s.perform t).BufferInv := by
  rcases perform_cases s t with ⟨-, d, hp⟩ | ⟨-, -, hp⟩ | ⟨-, hsp, hp⟩
  · rw [hp]; exact h.congr rfl rfl rfl
  · rw [hp]; exact h.writeReg _ _
  · rw [hp]
    refine h.writeBuffer _ _ ?_
    rw [length_take_byteCount]
    exact Txn.byteCount_within_of_refusal_none hsp hr

/-- Settles O55, by the moves a step can be: idle moves and host statements, the engine's completion, and the resets. -/
theorem bufferInvariantKept : Obligations.BufferInvariantKept := by
  intro s s' h hstep
  have hq : s.takeTurn.BufferInv := h.takeTurn
  rcases step_cases s s' hstep with ⟨-, -, rfl⟩ | ⟨-, -, t, hrun, rfl⟩ | ⟨-, -, rfl⟩ |
    ⟨-, st, t, -, -, hr, rfl⟩ | ⟨-, rfl⟩ | ⟨-, rfl⟩
  · exact hq
  · exact hq.runLatched s.cur.word hrun
  · exact hq
  · exact (hq.perform t hr).congr rfl rfl rfl
  · exact hq.warmReset
  · exact hq.powerOnReset

end Sys2Proof.Machine
end

section
/-! The control part of the state (BUSY, DONE, IE, OVR, CMD, the latch, HAZARD): which transaction a step performs,
where it goes, and what a completion leaves (R33, R302, R304). -/

namespace Sys2Proof.Machine

/-! The register port: which offset a register has, and which transactions reach it. -/

/-- A word-aligned offset that is not reserved is the offset of its register (R33). -/
theorem Reg.offset_ofOffset {o : Nat} (halign : o % 4 = 0) (h : Reg.ofOffset o ≠ .reserved) :
    (Reg.ofOffset o).offset.toNat = o := by
  by_cases hlow : o < 44
  · obtain ⟨q, rfl⟩ : ∃ q, o = 4 * q := ⟨o / 4, by omega⟩
    have hq : q < 11 := by omega
    interval_cases q <;> rfl
  · rw [Reg.ofOffset_high o (by omega)] at h ⊢
    have hwindow : 64 ≤ o / 4 ∧ o / 4 < 108 := by
      by_contra hout
      exact h (if_neg hout)
    rw [if_pos hwindow, Reg.offset, BitVec.toNat_ofNat]
    omega

/-- A register transaction the model does not refuse is word-aligned (R293). -/
theorem Txn.aligned_of_refusal_none {t : Txn} {n : Nat} (hsp : t.space = .reg) (h : t.refusal n = none) :
    t.offset.toNat % 4 = 0 := by
  simp only [Txn.refusal, hsp] at h
  split_ifs at h with hw ha
  omega

/-! Whose transaction a step performs. -/

theorem State.moveTxn_of_host {s : State} {st : Stmt} {t : Txn} (hturn : s.nextTurn = .host)
    (hst : s.statement = some st) (ht : st.txn? = some t) : s.moveTxn = some t := by
  simp [State.moveTxn, hturn, hst, ht]

theorem State.moveTxn_of_not_host {s : State} (hturn : s.nextTurn ≠ .host) : s.moveTxn = none := by
  unfold State.moveTxn
  split
  case h_1 hq => exact absurd hq hturn
  all_goals rfl

theorem State.moveTxn_of_hostEnded {s : State} (hend : s.hostEnded = true) : s.moveTxn = none := by
  have hnone : s.statement.bind Stmt.txn? = none := by
    unfold State.hostEnded at hend
    split at hend
    case h_1 hs => rw [hs]; rfl
    case h_2 hs => rw [hs]; rfl
    all_goals cases hend
  unfold State.moveTxn
  split
  · exact hnone
  all_goals rfl

/-! Completion. -/

/-- Every command completes (R304) and leaves the rest of the control state. -/
theorem exec_control {i : Instr} {s t : State} (h : exec i s = .next t) :
    t.busy = false ∧ t.done = true ∧ t.ie = s.ie ∧ t.ovr = s.ovr ∧ t.cmd = s.cmd ∧ t.cur = s.cur := by
  rcases exec_cases i s with ⟨e, d, -, -, hx⟩ | ⟨m, d, r, k, v, hx, -⟩
  all_goals
    obtain rfl := Host.Outcome.next.inj (hx.symm.trans h)
    exact ⟨rfl, rfl, rfl, rfl, rfl, rfl⟩

/-- So does the engine's move, an illegal word included (R302). -/
theorem State.runLatched_control {s t : State} (h : s.runLatched = .next t) :
    t.busy = false ∧ t.done = true ∧ t.ie = s.ie ∧ t.ovr = s.ovr ∧ t.cmd = s.cmd ∧ t.cur = s.cur := by
  rcases State.runLatched_cases h with ⟨i, -, hx⟩ | rfl
  · exact exec_control hx
  · exact ⟨rfl, rfl, rfl, rfl, rfl, rfl⟩

theorem State.runLatched_hazard {s t : State} (h : s.runLatched = .next t) : t.hazard = s.hazard := by
  rcases State.runLatched_cases h with ⟨i, -, hx⟩ | rfl
  · exact (exec_bufSize_hazard hx).2
  · rfl

end Sys2Proof.Machine
end

section
/-! The life-cycle invariant: every step keeps it (R38, R50, R300, R304). -/

namespace Sys2Proof.Machine

/-- The invariant reads BUSY, DONE, CMD and the latch only. -/
theorem State.LifeCycleInv.congr {s t : State} (h : s.LifeCycleInv) (hbusy : t.busy = s.busy) (hdone : t.done = s.done)
    (hcmd : t.cmd = s.cmd) (hcur : t.cur = s.cur) : t.LifeCycleInv := by
  unfold State.LifeCycleInv
  rwa [hbusy, hdone, hcmd, hcur]

/-- An idle state only has to keep CMD and the latch. -/
theorem State.LifeCycleInv.of_idle {s t : State} (h : s.LifeCycleInv) (hbusy : t.busy = false) (hcmd : t.cmd = s.cmd)
    (hcur : t.cur = s.cur) : t.LifeCycleInv := by
  obtain ⟨-, hword, hopc⟩ := h
  refine ⟨fun hset => ?_, ?_, ?_⟩
  · simp [hbusy] at hset
  · rw [hcur, hcmd]; exact hword
  · rw [hcur]; exact hopc

theorem State.LifeCycleInv.accept (s : State) (w : Word) : (s.accept w).LifeCycleInv := ⟨fun _ => rfl, rfl, rfl⟩

theorem State.LifeCycleInv.warmReset (s : State) : s.warmReset.LifeCycleInv := ⟨fun _ => rfl, rfl, rfl⟩

theorem State.LifeCycleInv.powerOnReset (s : State) : s.powerOnReset.LifeCycleInv := ⟨fun _ => rfl, rfl, rfl⟩

/-- A STATUS write can only lower DONE. -/
theorem State.LifeCycleInv.writeStatus {s : State} (h : s.LifeCycleInv) (v : Word) :
    (s.writeStatus v).LifeCycleInv := by
  obtain ⟨hlow, hword, hopc⟩ := h
  refine ⟨fun hset => ?_, hword, hopc⟩
  simp [hlow hset]

theorem State.LifeCycleInv.writeReg {s : State} (h : s.LifeCycleInv) (r : Reg) (v : Word) :
    (s.writeReg r v).LifeCycleInv := by
  rcases writeReg_cases s r v with ⟨-, -, hw⟩ | ⟨-, -, hw⟩ | ⟨-, hw⟩ | ⟨-, -, hw⟩ | ⟨-, -, hw⟩ | ⟨x, y, z, hw⟩
  · rw [hw]; exact .warmReset s
  · rw [hw]; exact h.congr rfl rfl rfl rfl
  · rw [hw]; exact h.writeStatus v
  · rw [hw]; exact h.congr rfl rfl rfl rfl
  · rw [hw]; exact .accept s v
  · rw [hw]; exact h.congr rfl rfl rfl rfl

theorem State.LifeCycleInv.writeBuffer {s : State} (h : s.LifeCycleInv) (a : Nat) (bs : List Byte) :
    (s.writeBuffer a bs).LifeCycleInv := by
  rcases writeBuffer_cases s a bs with ⟨-, hw⟩ | ⟨-, -, hw⟩ | ⟨-, -, hw⟩
  all_goals rw [hw]; exact h.congr rfl rfl rfl rfl

theorem State.LifeCycleInv.perform {s : State} (h : s.LifeCycleInv) (t : Txn) : (s.perform t).LifeCycleInv := by
  rcases perform_cases s t with ⟨-, d, hp⟩ | ⟨-, -, hp⟩ | ⟨-, -, hp⟩
  · rw [hp]; exact h.congr rfl rfl rfl rfl
  · rw [hp]; exact h.writeReg _ _
  · rw [hp]; exact h.writeBuffer _ _

/-- The engine's move completes, whatever a hazard leaves open of the result (R303, R380). -/
theorem State.LifeCycleInv.runLatched {s t : State} (h : s.LifeCycleInv) (hz : Bool) (w : Word)
    (hrun : s.runLatched = .next t) : (if hz then t.taint w else t).LifeCycleInv := by
  obtain ⟨hbusy, -, -, -, hcmd, hcur⟩ := State.runLatched_control hrun
  have hdone : t.LifeCycleInv := h.of_idle hbusy hcmd hcur
  cases hz with
  | true => exact hdone.congr rfl rfl rfl rfl
  | false => exact hdone

/-- Settles O56, by the moves a step can be: idle moves and host statements, the engine's completion, and the resets. -/
theorem lifeCycleInvariantKept : Obligations.LifeCycleInvariantKept := by
  intro s s' h hstep
  have hq : s.takeTurn.LifeCycleInv := h.congr rfl rfl rfl rfl
  rcases step_cases s s' hstep with ⟨-, -, rfl⟩ | ⟨-, -, t, hrun, rfl⟩ | ⟨-, -, rfl⟩ |
    ⟨-, st, t, -, -, -, rfl⟩ | ⟨-, rfl⟩ | ⟨-, rfl⟩
  · exact hq
  · exact hq.runLatched s.hazard s.cur.word hrun
  · exact hq
  · exact (hq.perform t).congr rfl rfl rfl rfl
  · exact .warmReset s.takeTurn
  · exact .powerOnReset s.takeTurn

end Sys2Proof.Machine
end

section
/-! The sticky flags: HAZARD rises on a host buffer write while busy and on nothing else (R53, R380), and OVR falls by a
STATUS write or a reset only (R35, R301). -/

namespace Sys2Proof.Machine

/-! HAZARD. -/

@[simp] theorem State.writeReg_hazard (s : State) (r : Reg) (v : Word) : (s.writeReg r v).hazard = s.hazard := by
  rcases writeReg_cases s r v with ⟨-, -, hw⟩ | ⟨-, -, hw⟩ | ⟨-, hw⟩ | ⟨-, -, hw⟩ | ⟨-, -, hw⟩ | ⟨x, y, z, hw⟩
  all_goals simp [hw]

@[simp] theorem State.writeBuffer_hazard (s : State) (a : Nat) (bs : List Byte) :
    (s.writeBuffer a bs).hazard = (s.hazard || s.busy) := by
  rcases writeBuffer_cases s a bs with ⟨hb, hw⟩ | ⟨hb, hh, hw⟩ | ⟨hb, hh, hw⟩
  · simp [hw, hb]
  · simp [hw, hh]
  · simp [hw, hb]

theorem State.perform_hazard (s : State) (t : Txn) :
    (s.perform t).hazard = (s.hazard || (s.busy && t.writesBuf)) := by
  rcases perform_cases s t with ⟨hdir, d, hp⟩ | ⟨-, hsp, hp⟩ | ⟨hdir, hsp, hp⟩
  · simp [hp, Txn.writesBuf, hdir]
  · simp [hp, Txn.writesBuf, hsp]
  · simp [hp, Txn.writesBuf, hdir, hsp]

/-- Settles O45: only the host's move can set HAZARD, and it does so where `State.perform_hazard` says. -/
theorem hazardRisesOnBusyBufferWriteOnly : Obligations.HazardRisesOnBusyBufferWriteOnly := by
  intro s s' hstep
  rcases step_cases s s' hstep with ⟨hturn, -, rfl⟩ | ⟨hturn, -, t, hrun, rfl⟩ | ⟨-, hend, rfl⟩ |
    ⟨hturn, st, t, hst, ht, -, rfl⟩ | ⟨hturn, rfl⟩ | ⟨hturn, rfl⟩
  · simp [State.moveTxn_of_not_host, hturn]
  · have hkeep : t.hazard = s.hazard := (State.runLatched_hazard hrun).trans s.takeTurn_hazard
    simp [State.moveTxn_of_not_host, hturn, apply_ite State.hazard, hkeep]
  · simp [State.moveTxn_of_hostEnded hend]
  · simp [State.moveTxn_of_host hturn hst ht, State.perform_hazard]
  · simp [State.moveTxn_of_not_host, hturn]
  · simp [State.moveTxn_of_not_host, hturn]

/-! OVR. -/

/-- The two register writes that lower OVR: the soft reset, and STATUS with bit 3 set. -/
theorem State.writeReg_lowers_ovr {s : State} {r : Reg} {v : Word} (hset : s.ovr = true)
    (hclear : (s.writeReg r v).ovr = false) :
    (r = .ctrl ∧ v.getLsbD 1 = true) ∨ (r = .status ∧ v.getLsbD 3 = true) := by
  rcases writeReg_cases s r v with ⟨hr, hv, -⟩ | ⟨-, -, hw⟩ | ⟨hr, hw⟩ | ⟨-, -, hw⟩ | ⟨-, -, hw⟩ | ⟨x, y, z, hw⟩
  · exact .inl ⟨hr, hv⟩
  · simp [hw, hset] at hclear
  · exact .inr ⟨hr, by simpa [hw, hset] using hclear⟩
  all_goals simp [hw, hset] at hclear

theorem State.writeBuffer_ovr (s : State) (a : Nat) (bs : List Byte) : (s.writeBuffer a bs).ovr = s.ovr := by
  rcases writeBuffer_cases s a bs with ⟨-, hw⟩ | ⟨-, -, hw⟩ | ⟨-, -, hw⟩
  all_goals rw [hw]

/-- The same, of the transactions behind those writes. -/
theorem State.perform_lowers_ovr {s : State} {t : Txn} {n : Nat} (hr : t.refusal n = none) (hset : s.ovr = true)
    (hclear : (s.perform t).ovr = false) :
    t.softResets = true ∨ (t.writesReg 0x008 && t.data.getLsbD 3) = true := by
  rcases perform_cases s t with ⟨-, d, hp⟩ | ⟨hdir, hsp, hp⟩ | ⟨-, -, hp⟩
  · simp [hp, hset] at hclear
  · have halign := Txn.aligned_of_refusal_none hsp hr
    rw [hp] at hclear
    rcases State.writeReg_lowers_ovr hset hclear with ⟨hreg, hv⟩ | ⟨hreg, hv⟩
    · have hoff : t.offset.toNat = 4 := by
        simpa [hreg, Reg.offset, eq_comm] using Reg.offset_ofOffset halign
      left
      simp [Txn.softResets, Txn.writesReg, hsp, hdir, hoff, hv]
    · have hoff : t.offset.toNat = 8 := by
        simpa [hreg, Reg.offset, eq_comm] using Reg.offset_ofOffset halign
      right
      simp [Txn.writesReg, hsp, hdir, hoff, hv]
  · rw [hp, State.writeBuffer_ovr, hset] at hclear
    cases hclear

/-- Settles O51: a move other than a reset and the host's keeps OVR, and the host's lowers it as
`State.perform_lowers_ovr` says. -/
theorem overrunClearedOnlyByHostOrReset : Obligations.OverrunClearedOnlyByHostOrReset := by
  intro s s' hstep hset hclear
  rcases step_cases s s' hstep with ⟨-, -, rfl⟩ | ⟨-, -, t, hrun, rfl⟩ | ⟨-, -, rfl⟩ |
    ⟨hturn, st, t, hst, ht, hr, rfl⟩ | ⟨hturn, -⟩ | ⟨hturn, -⟩
  · simp [hset] at hclear
  · obtain ⟨-, -, -, hovr, -, -⟩ := State.runLatched_control hrun
    simp [apply_ite State.ovr, hovr, hset] at hclear
  · simp [hset] at hclear
  · have hmove := State.moveTxn_of_host hturn hst ht
    rcases State.perform_lowers_ovr (s := s.takeTurn) hr hset hclear with hsoft | hstatus
    · left; simp [State.resetsNext, hturn, hmove, hsoft]
    · right; simpa [hmove] using hstatus
  · left; simp [State.resetsNext, hturn]
  · left; simp [State.resetsNext, hturn]

end Sys2Proof.Machine
end

section
/-! What the host sees of the control state: the bits of STATUS and CTRL (R35, R37) and the interrupt (R52). -/

namespace Sys2Proof.Machine

@[simp] theorem getLsbD_bitWord (b : Bool) (k : Nat) : (bitWord b).getLsbD k = (decide (k = 0) && b) := by
  cases b <;> cases k <;> simp [bitWord]

/-- Settles O38: STATUS and CTRL are or-ed from single bits, each at its place. -/
theorem statusAndCtrlBits : Obligations.StatusAndCtrlBits := by
  intro s k hk
  refine ⟨?_, ?_⟩
  · simp only [State.statusWord, BitVec.getLsbD_or, BitVec.getLsbD_shiftLeft, getLsbD_bitWord]
    match k, hk with
    | 0, _ | 1, _ | 2, _ | 3, _ => simp
    | n + 4, hn => simp
  · rw [State.ctrlWord, getLsbD_bitWord]
    by_cases h0 : k = 0 <;> simp [h0]

/-! The interrupt. -/

theorem State.afterWrite_status (s : State) (v : Word) : s.afterWrite (regWrite 0x008 v) = s.writeStatus v := by
  simp [State.writeReg]

theorem State.afterWrite_ctrl (s : State) (v : Word) : s.afterWrite (regWrite 0x004 v) = s.writeCtrl v := by
  simp [State.writeReg]

theorem State.afterWrite_cmd (s : State) (w : Word) : s.afterWrite (regWrite 0x010 w) = s.writeCmd w := by
  simp [State.writeReg]

theorem State.irq_of_not_done {s : State} (h : s.done = false) : s.irq = false := by simp [State.irq, h]

theorem State.irq_of_not_ie {s : State} (h : s.ie = false) : s.irq = false := by simp [State.irq, h]

theorem State.irq_of_done {s : State} (h : s.done = true) : s.irq = s.ie := by simp [State.irq, h]

theorem exec_irq {i : Instr} {s t : State} (h : exec i s = .next t) : t.irq = s.ie := by
  obtain ⟨-, hdone, hie, -⟩ := exec_control h
  rw [State.irq_of_done hdone, hie]

theorem State.writeStatus_irq (s : State) {v : Word} (hv : v.getLsbD 1 = true) : (s.writeStatus v).irq = false :=
  State.irq_of_not_done (by simp [hv])

/-- A CTRL write lowers IRQ as a soft reset or by clearing IE (R37). -/
theorem State.writeCtrl_irq (s : State) {v : Word} (hv : v.getLsbD 1 = true ∨ v.getLsbD 0 = false) :
    (s.writeCtrl v).irq = false := by
  unfold State.writeCtrl
  split
  · exact State.irq_of_not_done rfl
  · next hno => exact State.irq_of_not_ie (hv.resolve_left hno)

theorem State.writeCmd_irq {s : State} (hidle : s.busy = false) (w : Word) : (s.writeCmd w).irq = false := by
  simp [State.writeCmd, hidle, State.irq]

/-- Settles O39: a completion sets DONE, and every other event of the rule clears DONE or IE. -/
theorem interruptIsEnableAndDone : Obligations.InterruptIsEnableAndDone := by
  intro s
  refine ⟨rfl, fun i t h => exec_irq h, State.irq_of_done rfl, ?_, ?_, ?_, State.irq_of_not_done rfl,
    State.irq_of_not_done rfl⟩
  · intro v hv; rw [State.afterWrite_status, State.writeStatus_irq s hv]
  · intro v hv; rw [State.afterWrite_ctrl, State.writeCtrl_irq s hv]
  · intro w hidle; rw [State.afterWrite_cmd, State.writeCmd_irq hidle]

end Sys2Proof.Machine
end

section
/-! The round-key window (R45): which words open it, and which bytes a closed window word shows. -/

namespace Sys2Proof.Machine

/-- A word is its low byte and its RSV field (R120). -/
theorem toNat_eq_fields (w : Word) : w.toNat = (fieldsOf w).opc.toNat + 256 * (fieldsOf w).rsv.toNat := by
  simp only [fieldsOf, BitVec.toNat_setWidth, BitVec.extractLsb'_toNat, Nat.shiftRight_eq_div_pow]
  omega

theorem ofOpcode_eq_some {opc : Byte} {i : Instr} (h : ofOpcode opc = some i) : opc.toNat = (encode i).toNat := by
  unfold ofOpcode at h
  split at h
  case h_8 => cases h
  all_goals
    next hopc =>
    obtain rfl := Option.some.inj h
    exact hopc

/-- A command is decoded from its own word only (R124). -/
theorem eq_encode_of_decode {w : Word} {i : Instr} (h : decode w = .ok i) : w = encode i := by
  unfold decode at h
  split at h
  case isFalse => cases h
  case isTrue hrsv =>
    split at h
    case h_2 => cases h
    case h_1 j hj =>
      obtain rfl := Except.ok.inj h
      have hzero : (fieldsOf w).rsv = 0 := by simpa [CmdFormat.reservedZero] using hrsv
      apply BitVec.eq_of_toNat_eq
      rw [toNat_eq_fields, hzero, ofOpcode_eq_some hj]
      rfl

theorem word_of_scheduleCommand {w : Word} (h : scheduleCommand w = true) : w = 0x00000001 ∨ w = 0x00000006 := by
  unfold scheduleCommand at h
  split at h
  case h_2 => cases h
  case h_1 i hi =>
    have hw := eq_encode_of_decode hi
    cases i with
    | expand => exact .inl hw
    | ksclr => exact .inr hw
    | nop | encrypt | decrypt | pad | unpad => cases h

/-- The window word of round key `j`, column `m`, has its place in the register map (R33). -/
theorem Reg.ofOffset_window {j m : Nat} (hj : j < 11) (hm : m < 4) :
    Reg.ofOffset (0x100 + 16 * j + 4 * m) = .rkw (4 * j + m) := by
  rw [Reg.ofOffset_high _ (by omega), if_pos (by omega)]
  congr 1
  omega

/-- The little-endian word (R81) as the sum of its bytes, each at its place. -/
theorem leWord_eq_or (b0 b1 b2 b3 : Byte) :
    leWord b0 b1 b2 b3 = b0.setWidth 32 ||| (b1.setWidth 32 <<< 8) ||| (b2.setWidth 32 <<< 16)
      ||| (b3.setWidth 32 <<< 24) := by
  apply BitVec.eq_of_getLsbD_eq
  intro i hi
  simp only [leWord, BitVec.getLsbD_append, BitVec.getLsbD_or, BitVec.getLsbD_shiftLeft, BitVec.getLsbD_setWidth]
  interval_cases i <;> simp

/-- The four bytes of column `m` are bytes `4m` to `4m+3` of the block. -/
theorem leWordOf_column (b : Block) {m : Nat} (hm : m < 4) :
    leWordOf (b.column m).toBytes =
      leWord (b.byte (4 * m)) (b.byte (4 * m + 1)) (b.byte (4 * m + 2)) (b.byte (4 * m + 3)) := by
  interval_cases m <;> rfl

theorem windowWord_eq (rk : RoundKeys) {j m : Nat} (hj : j < 11) (hm : m < 4) :
    windowWord rk (4 * j + m) = leWordOf (rk[j].column m).toBytes := by
  have hkey : (4 * j + m) / 4 = j := by omega
  have hcol : (4 * j + m) % 4 = m := by omega
  rw [windowWord, hkey, hcol, roundKeyAt_eq rk j hj]

/-- Settles O37: outside EXPAND and KSCLR the window is closed, and its word is a column of the round key. -/
theorem windowIsLittleEndian : Obligations.WindowIsLittleEndian := by
  intro s j m hj hm hword
  have hclosed : s.windowOpen = false :=
    s.windowOpen_eq_false fun ⟨hbusy, hsched⟩ => hword ⟨hbusy, word_of_scheduleCommand hsched⟩
  have hoff : (BitVec.ofNat 32 (0x100 + 16 * j + 4 * m)).toNat = 0x100 + 16 * j + 4 * m := by
    rw [BitVec.toNat_ofNat]
    omega
  calc s.readValue (regRead (BitVec.ofNat 32 (0x100 + 16 * j + 4 * m)))
      = s.readReg (.rkw (4 * j + m)) := by rw [State.readValue_regRead, hoff, Reg.ofOffset_window hj hm]
    _ = windowWord s.rk (4 * j + m) := by simp [State.readReg, hclosed]
    _ = leWord (s.rk[j].byte (4 * m)) (s.rk[j].byte (4 * m + 1)) (s.rk[j].byte (4 * m + 2))
          (s.rk[j].byte (4 * m + 3)) := by
        rw [windowWord_eq s.rk hj hm, leWordOf_column _ hm]
    _ = _ := leWord_eq_or _ _ _ _

end Sys2Proof.Machine
end

section
/-! The operands of a command come from the latch (R50, R122): other values in SRC, DST and LEN pass through every
command untouched. -/

namespace Sys2Proof.Machine

/-- The state with other values in SRC, DST and LEN. -/
def State.withOperands (s : State) (x y z : Word) : State := { s with src := x, dst := y, len := z }

/-- A completion carries the other operand registers along. -/
theorem State.settle_withOperands (s : State) (x y z : Word) (r : Except ErrCode State) :
    (s.withOperands x y z).settle (r.map fun t => t.withOperands x y z) = (s.settle r).withOperands x y z := by
  cases r <;> rfl

theorem State.blockChecks_withOperands (s : State) (x y z : Word) :
    (s.withOperands x y z).blockChecks = s.blockChecks := rfl

theorem State.transformBody_withOperands (s : State) (x y z : Word) (f : Block → Block) :
    (s.withOperands x y z).transformBody f = (s.transformBody f).map fun t => t.withOperands x y z := by
  unfold State.transformBody
  rw [State.blockChecks_withOperands]
  cases s.blockChecks <;> rfl

theorem State.expandBody_withOperands (s : State) (x y z : Word) :
    (s.withOperands x y z).expandBody = s.expandBody.map fun t => t.withOperands x y z := by
  unfold State.expandBody
  rw [apply_ite (Except.map _), apply_ite (Except.map _)]
  rfl

theorem State.padBody_withOperands (s : State) (x y z : Word) :
    (s.withOperands x y z).padBody = s.padBody.map fun t => t.withOperands x y z := by
  unfold State.padBody
  rw [apply_ite (Except.map _)]
  rfl

theorem State.unpadScan_withOperands (s : State) (x y z : Word) : (s.withOperands x y z).unpadScan = s.unpadScan := rfl

theorem exec_withOperands {i : Instr} {s t : State} (x y z : Word) (h : exec i s = .next t) :
    exec i (s.withOperands x y z) = .next (t.withOperands x y z) := by
  cases i with
  | nop | ksclr =>
    obtain rfl := Host.Outcome.next.inj h
    rfl
  | expand =>
    obtain rfl := Host.Outcome.next.inj h
    rw [exec, execExpand, State.expandBody_withOperands, State.settle_withOperands]
  | encrypt =>
    obtain rfl := Host.Outcome.next.inj h
    rw [exec, execEncrypt, State.transformBody_withOperands, State.settle_withOperands]
    rfl
  | decrypt =>
    obtain rfl := Host.Outcome.next.inj h
    rw [exec, execDecrypt, State.transformBody_withOperands, State.settle_withOperands]
    rfl
  | pad =>
    obtain rfl := Host.Outcome.next.inj h
    rw [exec, execPad, State.padBody_withOperands, State.settle_withOperands]
  | unpad =>
    obtain rfl := Host.Outcome.next.inj h
    rw [exec, execUnpad, State.unpadScan_withOperands]
    cases s.unpadScan.1 <;> rfl

/-- Settles O9, command by command: no body reads the three registers. -/
theorem commandsReadTheLatchOnly : Obligations.CommandsReadTheLatchOnly :=
  fun _ _ _ x y z h => exec_withOperands x y z h

end Sys2Proof.Machine
end

section
/-! Reads of bytes never written (R48, R294): which free value each of them takes, and how many a read draws. -/

namespace Sys2Proof.Machine

/-- How many of the `k` bytes from `a` have not been written: as many free values a read of them draws. -/
def Memory.unwrittenCount (m : Memory) (a k : Nat) : Nat := (List.range k).countP fun j => (m.read (a + j)).isNone

@[simp] theorem Memory.unwrittenCount_zero (m : Memory) (a : Nat) : m.unwrittenCount a 0 = 0 := rfl

/-- Counted from the front, as a read goes. -/
theorem Memory.unwrittenCount_succ (m : Memory) (a k : Nat) :
    m.unwrittenCount a (k + 1) = (if m.read a = none then 1 else 0) + m.unwrittenCount (a + 1) k := by
  have hshift : (fun j => (m.read (a + j)).isNone) ∘ Nat.succ = fun j => (m.read (a + 1 + j)).isNone := by
    funext j
    rw [Function.comp_apply, show a + j.succ = a + 1 + j by omega]
  rw [Memory.unwrittenCount, List.range_succ_eq_map, List.countP_cons, List.countP_map, hshift, Nat.add_comm]
  simp [Memory.unwrittenCount]

/-- One more byte read: the written one, or the next free value. -/
theorem Memory.readBytes_succ_of_some {m : Memory} {a : Nat} {b : Byte} (h : m.read a = some b) (n d : Nat) :
    m.readBytes a (n + 1) d = (b :: (m.readBytes (a + 1) n d).1, (m.readBytes (a + 1) n d).2) := by
  simp [Memory.readBytes, h]

theorem Memory.readBytes_succ_of_none {m : Memory} {a : Nat} (h : m.read a = none) (n d : Nat) :
    m.readBytes a (n + 1) d =
      (Config.draw d :: (m.readBytes (a + 1) n (d + 1)).1, (m.readBytes (a + 1) n (d + 1)).2) := by
  simp [Memory.readBytes, h]

/-- The draws a read makes. -/
theorem Memory.readBytes_draws (m : Memory) (n a d : Nat) : (m.readBytes a n d).2 = d + m.unwrittenCount a n := by
  induction n generalizing a d with
  | zero => rfl
  | succ n ih =>
    cases h : m.read a with
    | some b => simp [Memory.readBytes_succ_of_some h, ih, Memory.unwrittenCount_succ, h]
    | none => simp [Memory.readBytes_succ_of_none h, ih, Memory.unwrittenCount_succ, h, Nat.add_assoc]

/-- A byte never written takes the free value that is due when the read reaches it. -/
theorem Memory.readBytes_getElem?_of_none (m : Memory) {n k : Nat} (a d : Nat) (hk : k < n)
    (hopen : m.read (a + k) = none) :
    (m.readBytes a n d).1[k]? = some (Config.draw (d + m.unwrittenCount a k)) := by
  induction n generalizing a d k with
  | zero => omega
  | succ n ih =>
    cases k with
    | zero =>
      have hfirst : m.read a = none := hopen
      simp [Memory.readBytes_succ_of_none hfirst]
    | succ k =>
      have hrest : m.read (a + 1 + k) = none := by rwa [Nat.add_right_comm]
      cases h : m.read a with
      | some b =>
        simp [Memory.readBytes_succ_of_some h, ih (a + 1) d (by omega) hrest, Memory.unwrittenCount_succ, h]
      | none =>
        simp [Memory.readBytes_succ_of_none h, ih (a + 1) (d + 1) (by omega) hrest, Memory.unwrittenCount_succ, h,
          Nat.add_assoc]

/-- Byte `k` of a little-endian word (R81). -/
theorem extractLsb'_leWordOf {l : List Byte} {k : Nat} {b : Byte} (hk : k < 4) (h : l[k]? = some b) :
    (leWordOf l).extractLsb' (8 * k) 8 = b := by
  have hbytes : leBytes (leWordOf l) = [l.getD 0 0, l.getD 1 0, l.getD 2 0, l.getD 3 0] := leBytes_leWord _ _ _ _
  have hget : (leBytes (leWordOf l))[k]? = some b := by
    rw [hbytes]
    interval_cases k <;> simp [List.getD_eq_getElem?_getD, h]
  interval_cases k <;> exact Option.some.inj hget

/-- A byte read of an address the host sees nothing at, idle or busy. -/
theorem State.readBuffer_one_of_none {s : State} {a : Nat} (h : s.mem.read a = none) :
    s.readBuffer a 1 = ([Config.draw s.draws], s.draws + 1) := by
  have hview : s.hostView.read a = none := by
    unfold State.hostView
    split
    · rfl
    · exact h
  rw [State.readBuffer, Memory.readBytes_succ_of_none hview]
  rfl

theorem State.readBuffer_of_idle {s : State} (h : s.busy = false) (a n : Nat) :
    s.readBuffer a n = s.mem.readBytes a n s.draws := by
  simp [State.readBuffer, State.hostView, h]

theorem State.afterRead_bufRead32 (s : State) (a : Word) :
    s.afterRead (bufRead 32 a) = { s with draws := (s.readBuffer a.toNat 4).2 } := rfl

/-- A byte read returns the next free value. -/
theorem State.readValue_bufRead8_of_none {s : State} {a : Word} (h : s.mem.read a.toNat = none) :
    s.readValue (bufRead 8 a) = (Config.draw s.draws).setWidth 32 := by
  rw [State.readValue_bufRead8, State.readBuffer_one_of_none h, leWordOf_single]

/-- Settles O43: the draws of a read run along its bytes, one for each byte never written. -/
theorem uninitialisedReadsAreFresh : Obligations.UninitialisedReadsAreFresh := by
  intro s a unwritten hcount
  have hun : ∀ k, unwritten k = s.mem.unwrittenCount a.toNat k := fun k => by
    rw [hcount k, Memory.unwrittenCount, List.countP_eq_length_filter]
  refine ⟨fun hopen => ⟨State.readValue_bufRead8_of_none hopen, ?_⟩, fun hidle => ⟨fun k hk => ⟨?_, ?_⟩, ?_⟩⟩
  · rw [State.afterRead_bufRead8, State.readBuffer_one_of_none hopen]
    exact State.readValue_bufRead8_of_none hopen
  · intro b hb
    rw [State.readValue_bufRead32, State.readBuffer_of_idle hidle]
    exact extractLsb'_leWordOf hk (Memory.readBytes_getElem _ _ _ _ k b hk hb)
  · intro hopen
    rw [State.readValue_bufRead32, State.readBuffer_of_idle hidle, hun]
    exact extractLsb'_leWordOf hk (Memory.readBytes_getElem?_of_none _ _ _ hk hopen)
  · rw [State.afterRead_bufRead32, State.readBuffer_of_idle hidle, Memory.readBytes_draws, hun]

end Sys2Proof.Machine
end

section
/-! The state after power-on reset: its values (R54, R374), and that it meets the invariants. -/

namespace Sys2Proof.Machine

theorem zeroKeys_getElem {j : Nat} (hj : j < 11) : zeroKeys[j] = Block.zero := Vector.getElem_replicate hj

/-- `BUF_SIZE` is legal for every number of further blocks (R9). -/
theorem State.reset_paramsLegal : State.reset.paramsLegal = true := by
  have hbound := Config.extraBlocks.isLt
  have hsize : State.reset.bufSize = 16 * (2 + Config.extraBlocks.val) := rfl
  simp only [State.paramsLegal, Bool.and_eq_true, beq_iff_eq, decide_eq_true_eq, hsize]
  omega

/-- Settles O47: the fields by their definition, the round keys as copies of the zero block. -/
theorem resetValues : Obligations.ResetValues := by
  refine ⟨rfl, rfl, ?_, ?_, rfl, rfl, rfl, rfl, rfl, rfl, ?_, fun j hj => zeroKeys_getElem hj, rfl, rfl, rfl,
    fun a => rfl⟩
  · rw [State.readValue_regRead]; rfl
  · rw [State.readValue_regRead]; rfl
  · rw [State.readValue_regRead]; rfl

/-- Settles O59: BUF is empty, the engine idle, the schedule cleared and ERR zero. -/
theorem invariantsHoldAtReset : Obligations.InvariantsHoldAtReset := by
  refine ⟨⟨rfl, rfl, State.reset_paramsLegal, fun _ => rfl⟩, ⟨fun _ => rfl, rfl, rfl⟩, fun _ => ⟨?_, fun _ => rfl⟩,
    fun _ => by decide⟩
  intro hksv
  cases hksv

end Sys2Proof.Machine
end

section
/-! The executing command (R97, R384): what the host cannot disturb while BUSY is set, transaction by transaction. -/

namespace Sys2Proof.Machine

/-- The part of the state that an executing command and the last results live in: BUSY, the latch, CMD, the schedule,
ERR and RESULT. -/
def State.execution (s : State) : Bool × Latch × Word × RoundKeys × Bool × Byte × Word :=
  (s.busy, s.cur, s.cmd, s.rk, s.ksv, s.err, s.result)

/-- From `s` to `t` the executing command is not disturbed, nor is BUF unless a hazard opens it (R380). -/
def State.Undisturbed (s t : State) : Prop := t.execution = s.execution ∧ (t.hazard = false → t.mem = s.mem)

theorem State.execution_eq_iff {s t : State} :
    t.execution = s.execution ↔
      t.busy = s.busy ∧ t.cur = s.cur ∧ t.cmd = s.cmd ∧ t.rk = s.rk ∧ t.ksv = s.ksv ∧ t.err = s.err ∧
        t.result = s.result := by
  simp only [State.execution, Prod.mk.injEq]

/-- A performed CTRL write with bit 1 set is a soft reset (R37, R293). -/
theorem Txn.softResets_of_ctrl {t : Txn} {n : Nat} (hr : t.refusal n = none) (hdir : t.dir = .write)
    (hsp : t.space = .reg) (hctrl : Reg.ofOffset t.offset.toNat = .ctrl) (hbit : t.data.getLsbD 1 = true) :
    t.softResets = true := by
  have hoff : t.offset.toNat = 4 := by
    simpa [hctrl, Reg.offset, eq_comm] using Reg.offset_ofOffset (Txn.aligned_of_refusal_none hsp hr)
  simp [Txn.softResets, Txn.writesReg, hsp, hdir, hoff, hbit]

/-- While busy a register write other than the soft reset reaches control bits and operands only: a CMD write is an
overrun (R301). -/
theorem State.writeReg_undisturbed {s : State} {r : Reg} {v : Word} (hbusy : s.busy = true)
    (hsoft : ¬(r = .ctrl ∧ v.getLsbD 1 = true)) : s.Undisturbed (s.writeReg r v) := by
  rcases writeReg_cases s r v with ⟨hr, hv, -⟩ | ⟨-, -, hw⟩ | ⟨-, hw⟩ | ⟨-, -, hw⟩ | ⟨-, hidle, -⟩ | ⟨x, y, z, hw⟩
  · exact absurd ⟨hr, hv⟩ hsoft
  · rw [hw]; exact ⟨rfl, fun _ => rfl⟩
  · rw [hw]; exact ⟨rfl, fun _ => rfl⟩
  · rw [hw]; exact ⟨rfl, fun _ => rfl⟩
  · simp [hbusy] at hidle
  · rw [hw]; exact ⟨rfl, fun _ => rfl⟩

/-- A buffer write while busy reaches BUF only, and sets HAZARD (R380). -/
theorem State.writeBuffer_undisturbed {s : State} (hbusy : s.busy = true) (a : Nat) (bs : List Byte) :
    s.Undisturbed (s.writeBuffer a bs) := by
  rcases writeBuffer_cases s a bs with ⟨-, hw⟩ | ⟨hidle, -⟩ | ⟨hidle, -⟩
  · rw [hw]; exact ⟨rfl, fun hno => nomatch hno⟩
  all_goals simp [hbusy] at hidle

theorem State.perform_undisturbed {s : State} {t : Txn} {n : Nat} (hbusy : s.busy = true) (hr : t.refusal n = none)
    (hsoft : t.softResets = false) : s.Undisturbed (s.perform t) := by
  rcases perform_cases s t with ⟨-, d, hp⟩ | ⟨hdir, hsp, hp⟩ | ⟨-, -, hp⟩
  · rw [hp]; exact ⟨rfl, fun _ => rfl⟩
  · rw [hp]
    refine State.writeReg_undisturbed hbusy fun ⟨hctrl, hbit⟩ => ?_
    simp [Txn.softResets_of_ctrl hr hdir hsp hctrl hbit] at hsoft
  · rw [hp]; exact State.writeBuffer_undisturbed hbusy _ _

/-- The host's move while busy, when it is no soft reset: nothing, or a transaction that disturbs nothing. -/
theorem step_host_undisturbed {s s' : State} (hstep : step s = .next s') (hbusy : s.busy = true)
    (hturn : s.nextTurn = .host) (hreset : s.resetsNext = false) : s.Undisturbed s' := by
  rcases step_cases s s' hstep with ⟨hother, -⟩ | ⟨hother, -⟩ | ⟨-, -, rfl⟩ | ⟨-, st, t, hst, ht, hr, rfl⟩ |
    ⟨hother, -⟩ | ⟨hother, -⟩
  · simp [hturn] at hother
  · simp [hturn] at hother
  · exact ⟨rfl, fun _ => rfl⟩
  · have hsoft : t.softResets = false := by
      simpa [State.resetsNext, hturn, State.moveTxn_of_host hturn hst ht] using hreset
    exact State.perform_undisturbed (s := s.takeTurn) hbusy hr hsoft
  · simp [hturn] at hother
  · simp [hturn] at hother

/-- Settles O53: the host's move disturbs nothing, field by field. -/
theorem executingCommandIsUndisturbed : Obligations.ExecutingCommandIsUndisturbed := by
  intro s s' hstep hbusy hturn hreset
  obtain ⟨hkept, hmem⟩ := step_host_undisturbed hstep hbusy hturn hreset
  obtain ⟨hbusy', hcur, hcmd, hrk, hksv, herr, hresult⟩ := State.execution_eq_iff.mp hkept
  exact ⟨hbusy'.trans hbusy, hcur, hcmd, hrk, hksv, herr, hresult, hmem⟩

end Sys2Proof.Machine
end

section
/-! The decoder over all 2^32 words (R123 to R125): every command from its own word and no other, and the two kinds of
illegal words with their reasons. -/

namespace Sys2Proof.Machine

theorem roundTrip : ∀ i : Instr, Laws.RoundTrip.Statement i
  | .nop => Laws.RoundTrip.nop
  | .expand => Laws.RoundTrip.expand
  | .encrypt => Laws.RoundTrip.encrypt
  | .decrypt => Laws.RoundTrip.decrypt
  | .pad => Laws.RoundTrip.pad
  | .unpad => Laws.RoundTrip.unpad
  | .ksclr => Laws.RoundTrip.ksclr

theorem decode_encode (i : Instr) : decode (encode i) = .ok i := by
  obtain ⟨-, -, hdecode⟩ := roundTrip i
  exact hdecode

/-- Settles O2: a decoded word is the command's own, and that word decodes to the command. -/
theorem decodeEncodeAgree : Obligations.DecodeEncodeAgree := by
  refine fun w i => ⟨eq_encode_of_decode, ?_⟩
  rintro rfl
  exact decode_encode i

theorem opcOf_eq_extractLsb' (w : Word) : opcOf w = w.extractLsb' 0 8 := BitVec.setWidth_eq_extractLsb' (by decide)

theorem fieldsOf_opc (w : Word) : (fieldsOf w).opc = w.extractLsb' 0 8 := opcOf_eq_extractLsb' w

theorem reservedZero_fieldsOf {w : Word} : (fieldsOf w).reservedZero = true ↔ w.extractLsb' 8 24 = 0 := beq_iff_eq

theorem ofOpcode_eq_none {opc : Byte} (h : 7 ≤ opc.toNat) : ofOpcode opc = none := by
  unfold ofOpcode
  split
  case h_8 => rfl
  all_goals omega

theorem decode_of_reservedField {w : Word} (hrsv : w.extractLsb' 8 24 ≠ 0) : decode w = .error .reservedField := by
  rw [decode, if_neg (mt reservedZero_fieldsOf.mp hrsv)]

/-- With RSV zero the code alone decides. -/
theorem decode_of_opcode {w : Word} {i : Instr} (hrsv : w.extractLsb' 8 24 = 0)
    (hopc : ofOpcode (w.extractLsb' 0 8) = some i) : decode w = .ok i := by
  rw [decode, if_pos (reservedZero_fieldsOf.mpr hrsv), fieldsOf_opc, hopc]

theorem decode_of_reservedOpcode {w : Word} (hrsv : w.extractLsb' 8 24 = 0) (hopc : 7 ≤ (w.extractLsb' 0 8).toNat) :
    decode w = .error .reservedOpcode := by
  rw [decode, if_pos (reservedZero_fieldsOf.mpr hrsv), fieldsOf_opc, ofOpcode_eq_none hopc]

/-- A word that fails either check of R125 is illegal. -/
theorem decode_error_of_illegal {w : Word} (h : w.extractLsb' 8 24 ≠ 0 ∨ 7 ≤ (w.extractLsb' 0 8).toNat) :
    ∃ e, decode w = .error e := by
  by_cases hrsv : w.extractLsb' 8 24 = 0
  · exact ⟨_, decode_of_reservedOpcode hrsv (h.resolve_left (not_not_intro hrsv))⟩
  · exact ⟨_, decode_of_reservedField hrsv⟩

/-- Settles O3: the RSV check first, then the opcode map entry by entry. -/
theorem decoderFollowsOpcodeMap : Obligations.DecoderFollowsOpcodeMap := by
  intro w
  refine ⟨fun hrsv => decode_error_of_illegal (.inl hrsv), fun hrsv => ?_⟩
  have entry {i : Instr} {opc : Byte} (hi : ofOpcode opc = some i) (hopc : w.extractLsb' 0 8 = opc) :
      decode w = .ok i := decode_of_opcode hrsv (hopc ▸ hi)
  exact ⟨entry rfl, entry rfl, entry rfl, entry rfl, entry rfl, entry rfl, entry rfl,
    fun hopc => decode_error_of_illegal (.inr hopc)⟩

/-- Settles O1: the seven words are the commands' own; the others fail one of the two checks. -/
theorem commandWordsDecode : Obligations.CommandWordsDecode :=
  ⟨decode_encode .nop, decode_encode .expand, decode_encode .encrypt, decode_encode .decrypt, decode_encode .pad,
    decode_encode .unpad, decode_encode .ksclr,
    decode_of_reservedOpcode (by decide) (by decide), decode_of_reservedOpcode (by decide) (by decide),
    decode_of_reservedField (by decide), decode_of_reservedField (by decide),
    decode_of_reservedField (by decide), decode_of_reservedField (by decide)⟩

/-! An illegal word in the life of a command (R125, R302). -/

theorem State.writeCmd_of_idle {s : State} (hidle : s.busy = false) (w : Word) : s.writeCmd w = s.accept w := by
  simp [State.writeCmd, hidle]

/-- A move queued for the engine is the engine's move on the state without it. -/
theorem step_engine_queued (s : State) : step { s with turns := .engine :: s.turns } = engineStep s := rfl

theorem engineStep_of_illegal {s : State} {e : DecodeError} (hbusy : s.busy = true) (hsafe : s.hazard = false)
    (hword : decode s.cur.word = .error e) : engineStep s = .next s.illegal := by
  simp [engineStep, hbusy, hsafe, State.runLatched, hword, State.afterHazard]

/-- Settles O5: the CMD write is an acceptance like any other, and the engine finds no command in the word. -/
theorem illegalWordIsAcceptedAndCompletes : Obligations.IllegalWordIsAcceptedAndCompletes := by
  intro s w hidle hsafe hillegal
  have haccept : s.afterWrite (regWrite 0x010 w) = s.accept w := by
    rw [State.afterWrite_cmd, State.writeCmd_of_idle hidle]
  obtain ⟨e, he⟩ := decode_error_of_illegal hillegal
  rw [haccept]
  refine ⟨?_, ?_⟩
  · rw [← opcOf_eq_extractLsb']
    rfl
  · rintro a rfl
    rw [step_engine_queued, engineStep_of_illegal (s := s.accept w) rfl hsafe he]
    rfl

end Sys2Proof.Machine
end

section
/-! Operands that a command does not read (R122): another latched DST passes through EXPAND, PAD and UNPAD untouched,
and any latched operands through NOP and KSCLR. -/

namespace Sys2Proof.Machine

/-- The state with another value in the latched DST. -/
def State.withLatchedDst (s : State) (x : Word) : State := { s with cur := { s.cur with dst := x } }

/-- A completion carries the other latched DST along. -/
theorem State.settle_withLatchedDst (s : State) (x : Word) (r : Except ErrCode State) :
    (s.withLatchedDst x).settle (r.map fun t => t.withLatchedDst x) = (s.settle r).withLatchedDst x := by
  cases r <;> rfl

theorem State.expandBody_withLatchedDst (s : State) (x : Word) :
    (s.withLatchedDst x).expandBody = s.expandBody.map fun t => t.withLatchedDst x := by
  unfold State.expandBody
  rw [apply_ite (Except.map _), apply_ite (Except.map _)]
  rfl

theorem State.padBody_withLatchedDst (s : State) (x : Word) :
    (s.withLatchedDst x).padBody = s.padBody.map fun t => t.withLatchedDst x := by
  unfold State.padBody
  rw [apply_ite (Except.map _)]
  rfl

theorem State.unpadScan_withLatchedDst (s : State) (x : Word) : (s.withLatchedDst x).unpadScan = s.unpadScan := rfl

theorem exec_withLatchedDst {i : Instr} {s t : State} (x : Word) (hi : i = .expand ∨ i = .pad ∨ i = .unpad)
    (h : exec i s = .next t) : exec i (s.withLatchedDst x) = .next (t.withLatchedDst x) := by
  rcases hi with rfl | rfl | rfl
  · obtain rfl := Host.Outcome.next.inj h
    rw [exec, execExpand, State.expandBody_withLatchedDst, State.settle_withLatchedDst]
  · obtain rfl := Host.Outcome.next.inj h
    rw [exec, execPad, State.padBody_withLatchedDst, State.settle_withLatchedDst]
  · obtain rfl := Host.Outcome.next.inj h
    rw [exec, execUnpad, State.unpadScan_withLatchedDst]
    cases s.unpadScan.1 <;> rfl

/-- Settles O10: no body of the three commands reads the latched DST, and NOP and KSCLR read no operand at all. -/
theorem unreadOperandsDoNotMatter : Obligations.UnreadOperandsDoNotMatter := by
  refine ⟨fun i s t x hi h => exec_withLatchedDst x hi h, fun i s t x y z hi h => ?_⟩
  rcases hi with rfl | rfl
  all_goals
    obtain rfl := Host.Outcome.next.inj h
    rfl

end Sys2Proof.Machine
end

section
/-! PAD (R155): how it ends in each of its two cases, and what it leaves in BUF. -/

namespace Sys2Proof.Machine

theorem toNat_paddingByte (n : Nat) : (BitVec.ofNat 8 (padLength n)).toNat = padLength n := by
  have := padLength_le n
  rw [BitVec.toNat_ofNat, Nat.mod_eq_of_lt (by omega)]

@[simp] theorem length_padded (data : List Byte) : (padded data).length = data.length + padLength data.length := by
  simp [padded]

/-- The state PAD completes in when the padded stream fits. -/
def State.afterPad (s : State) : State :=
  { s with
    mem := s.mem.writeBytes (s.srcOffset + s.lenBytes) (paddingBytes s.lenBytes)
    result := BitVec.ofNat 32 (s.lenBytes + padLength s.lenBytes)
    err := 0x00, busy := false, done := true }

theorem exec_pad_of_fits {s : State} (h : s.srcOffset + (s.lenBytes + padLength s.lenBytes) ≤ s.bufSize) :
    exec .pad s = .next s.afterPad := by
  rcases State.padBody_cases s with ⟨hrange, -⟩ | ⟨-, hbody⟩
  · omega
  · rw [exec, execPad, hbody]; rfl

theorem exec_pad_of_range {s : State} (h : s.bufSize < s.srcOffset + (s.lenBytes + padLength s.lenBytes)) :
    exec .pad s = .next (s.complete .range) := by
  rcases State.padBody_cases s with ⟨-, hbody⟩ | ⟨hfits, -⟩
  · rw [exec, execPad, hbody]; rfl
  · omega

/-- Every byte of BUF after PAD: the padding byte behind the message, and the old byte elsewhere. -/
theorem State.read_afterPad (s : State) (x : Nat) :
    s.afterPad.mem.read x =
      if s.srcOffset + s.lenBytes ≤ x ∧ x < s.srcOffset + s.lenBytes + padLength s.lenBytes
      then some (BitVec.ofNat 8 (padLength s.lenBytes)) else s.mem.read x := by
  rw [State.afterPad, Memory.read_writeBytes, length_paddingBytes]
  split
  · exact List.getElem?_replicate_of_lt (by omega)
  · rfl

theorem State.bytesAt_padding_afterPad (s : State) :
    s.afterPad.mem.bytesAt (s.srcOffset + s.lenBytes) (padLength s.lenBytes) = some (paddingBytes s.lenBytes) := by
  rw [← length_paddingBytes]
  exact Memory.bytesAt_writeBytes ..

/-- PAD does not touch the message. -/
theorem State.bytesAt_message_afterPad (s : State) :
    s.afterPad.mem.bytesAt s.srcOffset s.lenBytes = s.mem.bytesAt s.srcOffset s.lenBytes :=
  Memory.bytesAt_writeBytes_other _ _ _ _ _ (.inl le_rfl)

/-- A message in BUF is followed by its padding after PAD (R151). -/
theorem State.bytesAt_padded_afterPad {s : State} {data : List Byte}
    (h : s.mem.bytesAt s.srcOffset s.lenBytes = some data) :
    s.afterPad.mem.bytesAt s.srcOffset (padded data).length = some (padded data) := by
  have hlen : data.length = s.lenBytes := ((Memory.bytesAt_eq_some _ _ _ _).1 h).1
  rw [length_padded, padded, hlen]
  exact Memory.bytesAt_append _ _ _ _ _ _ (s.bytesAt_message_afterPad.trans h) s.bytesAt_padding_afterPad

/-- Settles O14, by whether the padded stream fits. -/
theorem padAppendsPaddingBytes : Obligations.PadAppendsPaddingBytes := by
  rintro s a n r rfl rfl rfl
  refine ⟨fun hrange => ?_, fun hfits => ⟨s.afterPad.mem, ?_, s.read_afterPad⟩⟩
  · exact exec_pad_of_range (Nat.add_assoc .. ▸ hrange)
  · exact exec_pad_of_fits (Nat.add_assoc .. ▸ hfits)

end Sys2Proof.Machine
end

section
/-! UNPAD (R156): what its scan finds in each case, stated for the bytes that decide it, and how the command completes
with what it found. -/

namespace Sys2Proof.Machine

/-! Bytes of BUF. -/

/-- A run of one byte. -/
theorem Memory.bytesAt_eq_replicate (m : Memory) (a n : Nat) (b : Byte) :
    m.bytesAt a n = some (List.replicate n b) ↔ ∀ k, k < n → m.read (a + k) = some b := by
  rw [Memory.bytesAt_eq_some]
  constructor
  · rintro ⟨-, h⟩ k hk
    rw [h k hk, List.getElem?_replicate_of_lt hk]
  · intro h
    refine ⟨List.length_replicate, fun k hk => ?_⟩
    rw [h k hk, List.getElem?_replicate_of_lt hk]

/-- Written bytes cost a read no free value, whatever they are. -/
theorem Memory.unwrittenCount_eq_zero {m : Memory} {a n : Nat} (h : ∀ k, k < n → m.read (a + k) ≠ none) :
    m.unwrittenCount a n = 0 := by
  rw [Memory.unwrittenCount, List.countP_eq_zero]
  intro k hk
  rw [Option.isNone_iff_eq_none]
  exact h k (List.mem_range.1 hk)

/-! How UNPAD completes. -/

theorem exec_unpad_of_ok {s : State} {n d : Nat} (h : s.unpadScan = (.ok n, d)) :
    exec .unpad s =
      .next { s with result := BitVec.ofNat 32 n, err := 0x00, busy := false, done := true, draws := d } := by
  rw [exec, execUnpad, h]; rfl

theorem exec_unpad_of_error {s : State} {e : ErrCode} {d : Nat} (h : s.unpadScan = (.error e, d)) :
    exec .unpad s = .next { s with err := e.code, busy := false, done := true, draws := d } := by
  rw [exec, execUnpad, h]; rfl

/-! What the scan finds, check by check. -/

theorem State.unpadScan_of_range {s : State} (h : s.bufSize < s.srcOffset + s.lenBytes) :
    s.unpadScan = (.error .range, s.draws) := by
  have hfits : s.fits s.srcOffset s.lenBytes = false := by
    rw [← Bool.not_eq_true, State.fits_iff]; omega
  simp [State.unpadScan, hfits]

theorem State.unpadScan_of_empty {s : State} (hfits : s.srcOffset + s.lenBytes ≤ s.bufSize) (hlen : s.lenBytes = 0) :
    s.unpadScan = (.ok 0, s.draws) := by
  have hf : s.fits s.srcOffset 0 = true := (s.fits_iff _ _).2 (by omega)
  simp [State.unpadScan, hlen, hf]

section LastByteWritten
variable {s : State} {b : Byte} (hfits : s.srcOffset + s.lenBytes ≤ s.bufSize) (hlen : 0 < s.lenBytes)
  (hlast : s.mem.read (s.srcOffset + s.lenBytes - 1) = some b)
include hfits hlen hlast

/-- The scan of a nonempty region whose last byte `b` is written: `b` is bounded first, then the final bytes are read. -/
theorem State.unpadScan_of_last :
    s.unpadScan =
      if b.toNat = 0 ∨ s.lenBytes < b.toNat then (.error .invalidPadding, s.draws)
      else
        (if (s.mem.readBytes (s.srcOffset + s.lenBytes - b.toNat) b.toNat s.draws).1.all (fun c => c.toNat == b.toNat)
          then .ok (s.lenBytes - b.toNat) else .error .invalidPadding,
        (s.mem.readBytes (s.srcOffset + s.lenBytes - b.toNat) b.toNat s.draws).2) := by
  have hf : s.fits s.srcOffset s.lenBytes = true := (s.fits_iff _ _).2 hfits
  have hread : s.mem.readBytes (s.srcOffset + s.lenBytes - 1) 1 s.draws = ([b], s.draws) :=
    Memory.readBytes_succ_of_some hlast 0 s.draws
  rw [State.unpadScan]
  simp only [hf, hread, Nat.ne_of_gt hlen, Bool.not_true, Bool.false_eq_true, if_false, List.getD_cons_zero]
  split_ifs <;> rfl

theorem State.unpadScan_of_last_out_of_bounds (hb : b.toNat = 0 ∨ s.lenBytes < b.toNat) :
    s.unpadScan = (.error .invalidPadding, s.draws) := by
  rw [State.unpadScan_of_last hfits hlen hlast, if_pos hb]

/-- One written byte among the final ones that differs from the last is enough, whatever the others are. -/
theorem State.unpadScan_of_differing {k : Nat} {c : Byte} (hle : b.toNat ≤ s.lenBytes) (hk : k < b.toNat)
    (hc : s.mem.read (s.srcOffset + s.lenBytes - b.toNat + k) = some c) (hne : c ≠ b) :
    s.unpadScan = (.error .invalidPadding,
      s.draws + s.mem.unwrittenCount (s.srcOffset + s.lenBytes - b.toNat) b.toNat) := by
  have hmem := List.mem_of_getElem? (Memory.readBytes_getElem _ _ _ s.draws k c hk hc)
  rw [State.unpadScan_of_last hfits hlen hlast, if_neg (by omega), Memory.readBytes_draws, if_neg]
  intro hall
  exact hne (BitVec.eq_of_toNat_eq (eq_of_beq (List.all_eq_true.1 hall c hmem)))

end LastByteWritten

/-- The final `b` bytes are all `b`: nothing is asked of the bytes before them. -/
theorem State.unpadScan_of_run {s : State} {b : Byte} (hfits : s.srcOffset + s.lenBytes ≤ s.bufSize)
    (hpos : 1 ≤ b.toNat) (hle : b.toNat ≤ s.lenBytes)
    (hrun : s.mem.bytesAt (s.srcOffset + s.lenBytes - b.toNat) b.toNat = some (List.replicate b.toNat b)) :
    s.unpadScan = (.ok (s.lenBytes - b.toNat), s.draws) := by
  have hlast : s.mem.read (s.srcOffset + s.lenBytes - 1) = some b := by
    rw [← (Memory.bytesAt_eq_replicate _ _ _ _).1 hrun (b.toNat - 1) (by omega)]
    congr 1; omega
  rw [State.unpadScan_of_last hfits (by omega) hlast, if_neg (by omega), Memory.readBytes_of_bytesAt _ _ _ _ _ hrun,
    if_pos (by simp)]

/-- `unpad` of a nonempty string by its last byte `b`, as `State.unpadScan_of_last` reads it (R153). -/
theorem unpaddedLength_of_last {data : List Byte} {b : Byte} (hlast : data[data.length - 1]? = some b) :
    unpaddedLength data =
      if b.toNat = 0 ∨ data.length < b.toNat then .error .invalidPadding
      else if (data.drop (data.length - b.toNat)).all (fun c => c.toNat == b.toNat) then .ok (data.length - b.toNat)
      else .error .invalidPadding := by
  have hne : data.length ≠ 0 := fun h => by simp [List.length_eq_zero_iff.1 h] at hlast
  simp only [unpaddedLength, hne, if_false, List.getD_eq_getElem?_getD, hlast, Option.getD_some]

/-- On written bytes the scan computes `unpad` of them (R153) and draws nothing. -/
theorem State.unpadScan_of_bytesAt {s : State} {data : List Byte} (hfits : s.srcOffset + s.lenBytes ≤ s.bufSize)
    (hdata : s.mem.bytesAt s.srcOffset s.lenBytes = some data) :
    s.unpadScan = (unpaddedLength data, s.draws) := by
  obtain ⟨hlen, hbyte⟩ := (Memory.bytesAt_eq_some _ _ _ _).1 hdata
  rcases Nat.eq_zero_or_pos s.lenBytes with hempty | hpos
  · rw [State.unpadScan_of_empty hfits hempty, unpaddedLength, if_pos (hlen.trans hempty)]
  · obtain ⟨b, hb⟩ : ∃ b, data[data.length - 1]? = some b := ⟨_, List.getElem?_eq_getElem (by omega)⟩
    have hlast : s.mem.read (s.srcOffset + s.lenBytes - 1) = some b := by
      rw [Nat.add_sub_assoc hpos, hbyte _ (by omega), ← hlen, hb]
    rw [State.unpadScan_of_last hfits hpos hlast, unpaddedLength_of_last hb, hlen]
    split
    · rfl
    · have hfinal := Memory.bytesAt_slice _ _ _ _ hdata (s.lenBytes - b.toNat) b.toNat (by omega)
      rw [← Nat.add_sub_assoc (by omega), List.take_of_length_le (by simp; omega)] at hfinal
      rw [Memory.readBytes_of_bytesAt _ _ _ _ _ hfinal]

/-- Settles O15, check by check in R156's order. -/
theorem unpadValidatesPadding : Obligations.UnpadValidatesPadding := by
  rintro s a len rfl rfl
  refine ⟨fun hrange => exec_unpad_of_error (State.unpadScan_of_range hrange),
    fun hfits hempty => exec_unpad_of_ok (State.unpadScan_of_empty hfits hempty),
    fun b hfits hlen hlast => ⟨fun hb => ?_, fun k c hle hk1 hk hc hne => ?_, fun hpos hle hall => ?_⟩⟩
  · exact exec_unpad_of_error (State.unpadScan_of_last_out_of_bounds hfits hlen hlast hb)
  · rw [show s.cur.src.toNat + s.cur.len.toNat - k =
      s.cur.src.toNat + s.cur.len.toNat - b.toNat + (b.toNat - k) by omega] at hc
    refine ⟨_, exec_unpad_of_error (State.unpadScan_of_differing hfits hlen hlast hle (by omega) hc hne),
      fun hwritten => ?_⟩
    rw [Memory.unwrittenCount_eq_zero, Nat.add_zero]
    intro j hj
    have hread := hwritten (b.toNat - j) (by omega) (by omega)
    rwa [show s.cur.src.toNat + s.cur.len.toNat - (b.toNat - j) =
      s.cur.src.toNat + s.cur.len.toNat - b.toNat + j by omega] at hread
  · refine exec_unpad_of_ok (State.unpadScan_of_run hfits hpos hle ?_)
    rw [Memory.bytesAt_eq_replicate]
    intro j hj
    rw [← hall (b.toNat - j) (by omega) (by omega)]
    congr 1
    show s.cur.src.toNat + s.cur.len.toNat - b.toNat + j = _
    omega

/-- Settles O16, by what the scan can find once the range check passes. -/
theorem unpadCompletesOnAnyData : Obligations.UnpadCompletesOnAnyData := by
  intro s hfits
  refine ⟨s.unpadScan.2, ?_⟩
  rcases s.unpadScan_cases with hrange | hinvalid | ⟨n, hn, hok⟩
  · exact absurd (s.unpadScan_range.1 hrange) (Nat.not_lt.2 hfits)
  · exact .inl (exec_unpad_of_error (Prod.ext hinvalid rfl))
  · exact .inr ⟨n, hn, exec_unpad_of_ok (Prod.ext hok rfl)⟩

end Sys2Proof.Machine
end

section
/-! PAD and UNPAD together: they compute the pure functions (R151, R153), and one undoes the other (R158). -/

namespace Sys2Proof.Machine

/-- Settles O17, by the bytes PAD leaves and by what UNPAD's scan finds in written bytes. -/
theorem segmenterComputesThePureFunctions : Obligations.SegmenterComputesThePureFunctions := by
  refine ⟨fun s t data hdata hfits hexec => ?_, fun s data hdata hfits => ?_⟩
  · have hlen : data.length = s.lenBytes := ((Memory.bytesAt_eq_some _ _ _ _).1 hdata).1
    rw [length_padded, hlen] at hfits
    obtain rfl := Host.Outcome.next.inj ((exec_pad_of_fits hfits).symm.trans hexec)
    exact ⟨rfl, State.bytesAt_padded_afterPad hdata⟩
  · have hscan := State.unpadScan_of_bytesAt hfits hdata
    cases hpure : unpaddedLength data with
    | ok n => exact exec_unpad_of_ok (hpure ▸ hscan)
    | error e => exact exec_unpad_of_error (hpure ▸ hscan)

/-- The state after PAD with UNPAD's length operand latched: the RESULT of PAD. -/
def State.relatched (t : State) : State := { t with cur := { t.cur with len := t.result } }

/-- The padded length is a register value: BUF_SIZE bounds it (R9). -/
theorem State.toNat_result_afterPad {s : State} (hlegal : s.paramsLegal = true)
    (hfits : s.srcOffset + (s.lenBytes + padLength s.lenBytes) ≤ s.bufSize) :
    s.afterPad.result.toNat = s.lenBytes + padLength s.lenBytes := by
  have hsize : s.bufSize ≤ 2 ^ 31 := by
    simp only [State.paramsLegal, Bool.and_eq_true, decide_eq_true_eq] at hlegal
    exact hlegal.2
  exact (BitVec.toNat_ofNat ..).trans (Nat.mod_eq_of_lt (by omega))

/-- UNPAD finds the message length behind PAD's padding, from the padding bytes alone (R158). -/
theorem State.unpadScan_relatched_afterPad {s : State} (hlegal : s.paramsLegal = true)
    (hfits : s.srcOffset + (s.lenBytes + padLength s.lenBytes) ≤ s.bufSize) :
    s.afterPad.relatched.unpadScan = (.ok s.lenBytes, s.draws) := by
  have hb := toNat_paddingByte s.lenBytes
  have hlen : s.afterPad.relatched.lenBytes = s.lenBytes + padLength s.lenBytes :=
    State.toNat_result_afterPad hlegal hfits
  have hscan := State.unpadScan_of_run (s := s.afterPad.relatched) (b := BitVec.ofNat 8 (padLength s.lenBytes))
    (by rw [hlen]; exact hfits) (by rw [hb]; exact padLength_pos _) (by omega)
    (by rw [hb, hlen, ← Nat.add_assoc, Nat.add_sub_cancel]; exact s.bytesAt_padding_afterPad)
  rwa [hlen, hb, Nat.add_sub_cancel] at hscan

/-- Settles O18, by the padding bytes PAD leaves and what UNPAD finds in them. -/
theorem padThenUnpadReturnsLength : Obligations.PadThenUnpadReturnsLength := by
  intro s t hlegal hfits hexec
  rw [← add_padLength] at hfits ⊢
  obtain rfl := Host.Outcome.next.inj ((exec_pad_of_fits hfits).symm.trans hexec)
  exact ⟨rfl, State.toNat_result_afterPad hlegal hfits, _,
    exec_unpad_of_ok (State.unpadScan_relatched_afterPad hlegal hfits), rfl, BitVec.ofNat_toNat .., rfl⟩

end Sys2Proof.Machine
end

section
/-! The frame of the commands in BUF: outside its stored region a command changes no byte. -/

namespace Sys2Proof.Machine

/-- Settles O28: BUF stays, or a string that fills exactly the stored region is written. -/
theorem bufferFrame : Obligations.BufferFrame := by
  intro i s t a n x hexec hregion hx
  rcases exec_mem_cases hexec with hmem | ⟨bs, hlen, -, hmem⟩
  · rw [hmem]
  · rw [hregion] at hlen hmem
    rw [hmem, Memory.read_writeBytes, if_neg (by omega)]

end Sys2Proof.Machine
end

section
/-! The key expansion as the words `w[0..43]` of R184, and the published vectors. -/

namespace Sys2Proof.Machine

/-- Word `4j + m` of an expanded schedule is column `m` of round key `j`. -/
theorem scheduleWord_keyExpansion (k : Block) {j m : Nat} (hj : j < 11) (hm : m < 4) :
    scheduleWord (keyExpansion k) (4 * j + m) = (expandedKey k j).column m := by
  have hkey : (4 * j + m) / 4 = j := by omega
  have hcol : (4 * j + m) % 4 = m := by omega
  rw [scheduleWord, hkey, hcol, roundKeyAt_eq _ j hj, keyExpansion_getElem k j hj]

/-- Column 0 of the next round key: the step of R184 with RotWord, SubWord and the round constant. -/
theorem column_zero_expandedKey_succ (k : Block) (j : Nat) :
    (expandedKey k (j + 1)).column 0 =
      ((expandedKey k j).column 0).xor ((subWord (rotWord ((expandedKey k j).column 3))).xor (rcon (j + 1))) := rfl

/-- The other columns: the step of R184 without them. -/
theorem column_succ_expandedKey_succ (k : Block) (j : Nat) {m : Nat} (hm : m < 3) :
    (expandedKey k (j + 1)).column (m + 1) =
      ((expandedKey k j).column (m + 1)).xor ((expandedKey k (j + 1)).column m) := by
  match m, hm with
  | 0, _ | 1, _ | 2, _ => rfl

/-- Settles O29: word `i` is column `i mod 4` of round key `i div 4`, so the cases are the key itself, a first column, and
a later column. -/
theorem keyExpansionRecurrence : Obligations.KeyExpansionRecurrence := by
  refine ⟨by decide, fun k i hi => ?_⟩
  obtain ⟨j, m, hm, rfl⟩ : ∃ j m, m < 4 ∧ i = 4 * j + m := ⟨i / 4, i % 4, by omega, by omega⟩
  cases j with
  | zero => rw [if_pos (by omega), scheduleWord_keyExpansion k (by omega) hm, expandedKey, Nat.mul_zero, Nat.zero_add]
  | succ j =>
    rw [if_neg (by omega), show 4 * (j + 1) + m - 4 = 4 * j + m by omega,
      scheduleWord_keyExpansion k (by omega) hm, scheduleWord_keyExpansion k (by omega) hm]
    cases m with
    | zero =>
      rw [if_pos (by omega), show 4 * (j + 1) + 0 - 1 = 4 * j + 3 by omega, show (4 * (j + 1) + 0) / 4 = j + 1 by omega,
        scheduleWord_keyExpansion k (by omega) (by omega), column_zero_expandedKey_succ]
    | succ m =>
      rw [if_neg (by omega), show 4 * (j + 1) + (m + 1) - 1 = 4 * (j + 1) + m by omega,
        scheduleWord_keyExpansion k (by omega) (by omega), column_succ_expandedKey_succ k j (by omega)]

theorem Block.eq_ofBytes {b : Block} {l : List Byte} (h : b.toBytes = l) : b = Block.ofBytes l := by
  rw [← h, Block.ofBytes_toBytes]

/-- Settles O34: the blocks are those of the published bytes, and the model computes the published values. -/
theorem publishedVectors : Obligations.PublishedVectors := by
  refine ⟨by decide +kernel, fun key plain enc hkey hplain henc => ?_⟩
  rw [Block.eq_ofBytes hkey, Block.eq_ofBytes hplain, Block.eq_ofBytes henc]
  decide +kernel

end Sys2Proof.Machine
end

section
/-! The key commands: what EXPAND completes in, check by check (R186), and KSCLR (R187). -/

namespace Sys2Proof.Machine

/-- The sixteen bytes EXPAND takes as its key, open ones drawn. -/
def State.expandKey (s : State) : Block := Block.ofBytes (s.mem.readBytes s.srcOffset 16 s.draws).1

/-- The state EXPAND completes in when its checks pass. -/
def State.afterExpand (s : State) : State :=
  { s with
    rk := keyExpansion s.expandKey, ksv := true, result := roundCount
    err := 0x00, busy := false, done := true
    draws := (s.mem.readBytes s.srcOffset 16 s.draws).2 }

theorem exec_expand_of_length {s : State} (h : s.lenBytes ≠ 16) :
    exec .expand s = .next (s.complete .invalidKeyLength) := by
  rcases State.expandBody_cases s with ⟨-, hbody⟩ | ⟨hlen, -⟩ | ⟨hlen, -⟩
  · rw [exec, execExpand, hbody]; rfl
  · exact absurd hlen h
  · exact absurd hlen h

theorem exec_expand_of_range {s : State} (hlen : s.lenBytes = 16) (hrange : s.bufSize < s.srcOffset + 16) :
    exec .expand s = .next (s.complete .range) := by
  rcases State.expandBody_cases s with ⟨hne, -⟩ | ⟨-, -, hbody⟩ | ⟨-, hfits, -⟩
  · exact absurd hlen hne
  · rw [exec, execExpand, hbody]; rfl
  · omega

theorem exec_expand_of_fits {s : State} (hlen : s.lenBytes = 16) (hfits : s.srcOffset + 16 ≤ s.bufSize) :
    exec .expand s = .next s.afterExpand := by
  rcases State.expandBody_cases s with ⟨hne, -⟩ | ⟨-, hrange, -⟩ | ⟨-, -, hbody⟩
  · exact absurd hlen hne
  · omega
  · rw [exec, execExpand, hbody]; rfl

/-- On a written key no free value is drawn. -/
theorem State.afterExpand_of_bytesAt {s : State} {key : List Byte} (h : s.mem.bytesAt s.srcOffset 16 = some key) :
    s.afterExpand =
      { s with
        rk := keyExpansion (Block.ofBytes key), ksv := true, result := roundCount
        err := 0x00, busy := false, done := true } := by
  rw [State.afterExpand, State.expandKey, Memory.readBytes_of_bytesAt _ _ _ _ _ h]

/-- State byte `s[k]` is byte `k` in buffer order (R82). -/
theorem Block.toBytes_getElem? (b : Block) {k : Nat} (hk : k < 16) : b.toBytes[k]? = some (b.byte k) := by
  interval_cases k <;> rfl

/-- The key has every written byte at its place, whatever the open ones are. -/
theorem State.byte_expandKey {s : State} {k : Nat} {b : Byte} (hk : k < 16)
    (hread : s.mem.read (s.srcOffset + k) = some b) : s.expandKey.byte k = b := by
  have hbytes : s.expandKey.toBytes = (s.mem.readBytes s.srcOffset 16 s.draws).1 :=
    Block.toBytes_ofBytes _ (Memory.length_readBytes ..)
  have hget := Block.toBytes_getElem? s.expandKey hk
  rw [hbytes, Memory.readBytes_getElem _ _ _ _ _ _ hk hread] at hget
  exact (Option.some.inj hget).symm

/-- Settles O12, check by check in R186's order. -/
theorem expandFillsTheSchedule : Obligations.ExpandFillsTheSchedule := by
  intro s
  refine ⟨exec_expand_of_length, exec_expand_of_range, fun key hlen hfits hkey => ?_, fun hlen hfits => ?_⟩
  · rw [exec_expand_of_fits hlen hfits, State.afterExpand_of_bytesAt hkey]
    rfl
  · exact ⟨s.expandKey, _, exec_expand_of_fits hlen hfits, fun k hk b hread => State.byte_expandKey hk hread⟩

/-- Settles O13: KSCLR has no check, and its completion writes the schedule and the status only. -/
theorem ksclrClearsTheSchedule : Obligations.KsclrClearsTheSchedule := fun _ => rfl

end Sys2Proof.Machine
end

section
/-! The schedule over steps: RK and KSV are written by EXPAND, KSCLR and resets only (R189), each of which leaves them
whole (R188), and after a hazard by the completion of those two commands (R380). -/

namespace Sys2Proof.Machine

/-! What a completed command does to the schedule. -/

theorem exec_schedule_of_not_writesSchedule {i : Instr} {s t : State} (hi : writesSchedule i = false)
    (h : exec i s = .next t) : t.rk = s.rk ∧ t.ksv = s.ksv := by
  rcases exec_cases i s with ⟨e, d, -, -, hx⟩ | ⟨m, d, r, k, v, hx, -, -, hkeep⟩
  · obtain rfl := Host.Outcome.next.inj (hx.symm.trans h)
    exact ⟨rfl, rfl⟩
  · obtain rfl := Host.Outcome.next.inj (hx.symm.trans h)
    exact hkeep hi

/-- EXPAND leaves the schedule, also a loaded one, when a check fails, or expands a key (R186). -/
theorem exec_expand_schedule {s t : State} (h : exec .expand s = .next t) :
    (t.rk = s.rk ∧ t.ksv = s.ksv) ∨ (t.rk = keyExpansion s.expandKey ∧ t.ksv = true) := by
  obtain rfl := Host.Outcome.next.inj h
  rcases State.expandBody_cases s with ⟨-, hbody⟩ | ⟨-, -, hbody⟩ | ⟨-, -, hbody⟩
  · left; rw [hbody]; exact ⟨rfl, rfl⟩
  · left; rw [hbody]; exact ⟨rfl, rfl⟩
  · right; rw [hbody]; exact ⟨rfl, rfl⟩

/-- A command keeps the schedule, expands a key, or clears it. -/
theorem exec_schedule_cases {i : Instr} {s t : State} (h : exec i s = .next t) :
    (t.rk = s.rk ∧ t.ksv = s.ksv) ∨ (t.rk = keyExpansion s.expandKey ∧ t.ksv = true) ∨
    (t.rk = zeroKeys ∧ t.ksv = false) := by
  cases i with
  | expand => exact (exec_expand_schedule h).imp_right .inl
  | ksclr =>
    obtain rfl := Host.Outcome.next.inj h
    exact .inr (.inr ⟨rfl, rfl⟩)
  | nop | encrypt | decrypt | pad | unpad => exact .inl (exec_schedule_of_not_writesSchedule rfl h)

theorem decode_of_scheduleCommand {w : Word} (h : scheduleCommand w = true) :
    decode w = .ok .expand ∨ decode w = .ok .ksclr := by
  rcases word_of_scheduleCommand h with rfl | rfl
  · exact .inl (decode_encode .expand)
  · exact .inr (decode_encode .ksclr)

/-- The engine's move on any other word, an illegal one included, keeps the round keys. -/
theorem State.runLatched_rk {s t : State} (hword : scheduleCommand s.cur.word = false) (h : s.runLatched = .next t) :
    t.rk = s.rk := by
  rcases State.runLatched_cases h with ⟨i, hi, hx⟩ | rfl
  · have hother : writesSchedule i = false := by simpa [scheduleCommand, hi] using hword
    exact (exec_schedule_of_not_writesSchedule hother hx).1
  · rfl

/-- What a hazard leaves open of such a move leaves the round keys too (R380). -/
theorem State.taint_rk {t : State} {w : Word} (hword : scheduleCommand w = false) : (t.taint w).rk = t.rk := by
  simp [State.taint, hword]

/-! What a transaction does to the schedule. -/

theorem State.writeBuffer_schedule (s : State) (a : Nat) (bs : List Byte) :
    (s.writeBuffer a bs).rk = s.rk ∧ (s.writeBuffer a bs).ksv = s.ksv := by
  rcases writeBuffer_cases s a bs with ⟨-, hw⟩ | ⟨-, -, hw⟩ | ⟨-, -, hw⟩
  all_goals rw [hw]; exact ⟨rfl, rfl⟩

/-- A register write is the soft reset or keeps the schedule. -/
theorem State.writeReg_schedule_cases (s : State) (r : Reg) (v : Word) :
    (r = .ctrl ∧ v.getLsbD 1 = true ∧ s.writeReg r v = s.warmReset) ∨
    ((s.writeReg r v).rk = s.rk ∧ (s.writeReg r v).ksv = s.ksv) := by
  rcases writeReg_cases s r v with hsoft | ⟨-, -, hw⟩ | ⟨-, hw⟩ | ⟨-, -, hw⟩ | ⟨-, -, hw⟩ | ⟨x, y, z, hw⟩
  · exact .inl hsoft
  all_goals right; rw [hw]; exact ⟨rfl, rfl⟩

/-- A performed transaction is the soft reset or keeps the schedule. -/
theorem State.perform_schedule_cases (s : State) {t : Txn} {n : Nat} (hr : t.refusal n = none) :
    (t.softResets = true ∧ s.perform t = s.warmReset) ∨
    ((s.perform t).rk = s.rk ∧ (s.perform t).ksv = s.ksv) := by
  rcases perform_cases s t with ⟨-, d, hp⟩ | ⟨hdir, hsp, hp⟩ | ⟨-, -, hp⟩
  · right; rw [hp]; exact ⟨rfl, rfl⟩
  · rw [hp]
    exact (s.writeReg_schedule_cases _ _).imp_left fun ⟨hctrl, hbit, hw⟩ =>
      ⟨Txn.softResets_of_ctrl hr hdir hsp hctrl hbit, hw⟩
  · right; rw [hp]; exact s.writeBuffer_schedule _ _

/-- Settles O52, by the moves a step can be that are neither a reset nor one of the two completions. -/
theorem scheduleIsImmutable : Obligations.ScheduleIsImmutable := by
  intro s s' hstep hreset hcommand
  rcases step_cases s s' hstep with ⟨-, -, rfl⟩ | ⟨hturn, hbusy, t, hrun, rfl⟩ | ⟨-, -, rfl⟩ |
    ⟨hturn, st, t, hst, ht, hr, rfl⟩ | ⟨hturn, -⟩ | ⟨hturn, -⟩
  · rfl
  · have hnext : s.commandNext = true := by simpa [State.commandNext, hturn] using hbusy
    have hword : scheduleCommand s.cur.word = false :=
      Bool.eq_false_iff.mpr fun h => hcommand ⟨hnext, decode_of_scheduleCommand h⟩
    have hrk : t.rk = s.rk := State.runLatched_rk (s := s.takeTurn) hword hrun
    simp [apply_ite State.rk, State.taint_rk hword, hrk]
  · rfl
  · rcases s.takeTurn.perform_schedule_cases hr with ⟨hsoft, -⟩ | ⟨hrk, -⟩
    · simp [State.resetsNext, hturn, State.moveTxn_of_host hturn hst ht, hsoft] at hreset
    · exact hrk
  · simp [State.resetsNext, hturn] at hreset
  · simp [State.resetsNext, hturn] at hreset

/-! The schedule invariant: kept where RK and KSV are, and met by a cleared and by an expanded schedule. -/

/-- The invariant reads RK, KSV and HAZARD only, and asks nothing once HAZARD is set. -/
theorem State.ScheduleInv.congr {s t : State} (h : s.ScheduleInv) (hsched : t.rk = s.rk ∧ t.ksv = s.ksv)
    (hhaz : s.hazard = true → t.hazard = true) : t.ScheduleInv := by
  intro hsafe
  obtain ⟨hrk, hksv⟩ := hsched
  rw [hrk, hksv]
  exact h (Bool.eq_false_iff.mpr fun hset => by simp [hhaz hset] at hsafe)

theorem State.ScheduleInv.of_cleared {s : State} (hrk : s.rk = zeroKeys) (hksv : s.ksv = false) : s.ScheduleInv :=
  fun _ => ⟨fun hset => by simp [hksv] at hset, fun _ => hrk⟩

theorem State.ScheduleInv.of_expanded {s : State} {k : Block} (hrk : s.rk = keyExpansion k) (hksv : s.ksv = true) :
    s.ScheduleInv :=
  fun _ => ⟨fun _ => ⟨k, hrk⟩, fun hclear => by simp [hksv] at hclear⟩

theorem State.ScheduleInv.of_hazard {s : State} (h : s.hazard = true) : s.ScheduleInv :=
  fun hsafe => by simp [h] at hsafe

theorem State.ScheduleInv.warmReset (s : State) : s.warmReset.ScheduleInv := .of_cleared rfl rfl

theorem State.ScheduleInv.powerOnReset (s : State) : s.powerOnReset.ScheduleInv := .of_cleared rfl rfl

theorem State.ScheduleInv.exec {i : Instr} {s t : State} (h : s.ScheduleInv) (hx : exec i s = .next t) :
    t.ScheduleInv := by
  rcases exec_schedule_cases hx with hkeep | ⟨hrk, hksv⟩ | ⟨hrk, hksv⟩
  · exact h.congr hkeep (exec_bufSize_hazard hx).2.trans
  · exact .of_expanded hrk hksv
  · exact .of_cleared hrk hksv

/-- The engine's move, whatever a hazard leaves open of it. -/
theorem State.ScheduleInv.runLatched {s t : State} (h : s.ScheduleInv) (w : Word) (hrun : s.runLatched = .next t) :
    (if s.hazard then t.taint w else t).ScheduleInv := by
  cases hhaz : s.hazard with
  | true => exact .of_hazard ((State.runLatched_hazard hrun).trans hhaz)
  | false =>
    rw [if_neg Bool.false_ne_true]
    rcases State.runLatched_cases hrun with ⟨i, -, hx⟩ | rfl
    · exact h.exec hx
    · exact h.congr ⟨rfl, rfl⟩ id

theorem State.ScheduleInv.perform {s : State} (h : s.ScheduleInv) {t : Txn} {n : Nat} (hr : t.refusal n = none) :
    (s.perform t).ScheduleInv := by
  rcases s.perform_schedule_cases hr with ⟨-, hp⟩ | hkeep
  · rw [hp]; exact .warmReset s
  · exact h.congr hkeep fun hset => by rw [State.perform_hazard, hset, Bool.true_or]

/-- Settles O57, by the moves a step can be: idle moves and host statements, the engine's completion, and the resets. -/
theorem scheduleInvariantKept : Obligations.ScheduleInvariantKept := by
  intro s s' h hstep
  have hq : s.takeTurn.ScheduleInv := h.congr ⟨rfl, rfl⟩ id
  rcases step_cases s s' hstep with ⟨-, -, rfl⟩ | ⟨-, -, t, hrun, rfl⟩ | ⟨-, -, rfl⟩ |
    ⟨-, st, t, -, -, hr, rfl⟩ | ⟨-, rfl⟩ | ⟨-, rfl⟩
  · exact hq
  · exact hq.runLatched s.cur.word hrun
  · exact hq
  · exact (hq.perform hr).congr ⟨rfl, rfl⟩ id
  · exact .warmReset s.takeTurn
  · exact .powerOnReset s.takeTurn

end Sys2Proof.Machine
end

section
/-! The field product (R210 to R212): additive in both factors, commutative and associative, with unit 1. -/

namespace Sys2Proof.Machine

theorem xtime_xor (a b : Byte) : xtime (a ^^^ b) = xtime a ^^^ xtime b := by
  have hfold : ∀ p q : Bool, (if (p ^^ q) then 0x1B#8 else 0x00#8) =
      (if p then 0x1B#8 else 0x00#8) ^^^ (if q then 0x1B#8 else 0x00#8) := by decide
  rw [xtime, xtime, xtime, BitVec.shiftLeft_xor_distrib, BitVec.getLsbD_xor, hfold]
  ac_rfl

theorem gmulLoop_xor_left (n : Nat) (a a' b p p' : Byte) :
    gmulLoop n (a ^^^ a') b (p ^^^ p') = gmulLoop n a b p ^^^ gmulLoop n a' b p' := by
  induction n generalizing a a' b p p' with
  | zero => rfl
  | succ n ih =>
    rw [gmulLoop, gmulLoop, gmulLoop, xtime_xor, ← ih]
    cases b.getLsbD 0
    · rfl
    · exact congrArg _ (by simp only [if_true]; ac_rfl)

theorem gmulLoop_xor_right (n : Nat) (a b b' p p' : Byte) :
    gmulLoop n a (b ^^^ b') (p ^^^ p') = gmulLoop n a b p ^^^ gmulLoop n a b' p' := by
  induction n generalizing a b b' p p' with
  | zero => rfl
  | succ n ih =>
    rw [gmulLoop, gmulLoop, gmulLoop, BitVec.ushiftRight_xor_distrib, BitVec.getLsbD_xor, ← ih]
    cases b.getLsbD 0 <;> cases b'.getLsbD 0
    · rfl
    · exact congrArg _ (by simp only [Bool.false_xor, if_true, Bool.false_eq_true, if_false]; ac_rfl)
    · exact congrArg _ (by simp only [Bool.xor_false, if_true]; ac_rfl)
    · have hcancel : (p ^^^ a) ^^^ (p' ^^^ a) = p ^^^ p' := by
        rw [show (p ^^^ a) ^^^ (p' ^^^ a) = p ^^^ p' ^^^ (a ^^^ a) by ac_rfl, BitVec.xor_self, BitVec.xor_zero]
      exact congrArg _ hcancel.symm

theorem gmul_xor_left (a a' b : Byte) : gmul (a ^^^ a') b = gmul a b ^^^ gmul a' b := gmulLoop_xor_left 8 a a' b 0 0

theorem gmul_xor_right (a b b' : Byte) : gmul a (b ^^^ b') = gmul a b ^^^ gmul a b' := gmulLoop_xor_right 8 a b b' 0 0

@[simp] theorem gmul_zero_left (b : Byte) : gmul 0x00#8 b = 0x00#8 := by
  simpa using gmul_xor_left 0 0 b

@[simp] theorem gmul_zero_right (a : Byte) : gmul a 0x00#8 = 0x00#8 := by
  simpa using gmul_xor_right a 0 0

/-- The sum of the powers `x^i` at those positions of a list where `b` has its bit set. -/
def powerSum (b : Byte) : List (Fin 8) → Byte
  | [] => 0x00#8
  | i :: l => (b &&& BitVec.twoPow 8 i) ^^^ powerSum b l

theorem powerSum_finRange (b : Byte) : powerSum b (List.finRange 8) = b := by
  apply BitVec.eq_of_getLsbD_eq
  intro i hi
  interval_cases i <;> simp [List.finRange_succ, powerSum]

/-- Every byte is a sum of powers of `x`: what holds of 0 and of each power, and passes to sums, holds of every byte. -/
theorem byte_sum_induction {P : Byte → Prop} (zero : P 0x00#8) (power : ∀ i : Fin 8, P (BitVec.twoPow 8 i))
    (sum : ∀ a b, P a → P b → P (a ^^^ b)) (b : Byte) : P b := by
  have hsum : ∀ l, P (powerSum b l) := by
    intro l
    induction l with
    | nil => exact zero
    | cons i l ih =>
      refine sum _ _ ?_ ih
      rw [BitVec.and_twoPow]
      split
      · exact power i
      · exact zero
  exact powerSum_finRange b ▸ hsum _

/-- Multiplication by `x` passes through the product loop. -/
theorem gmulLoop_xtime (n : Nat) (a b p : Byte) : gmulLoop n (xtime a) b (xtime p) = xtime (gmulLoop n a b p) := by
  induction n generalizing a b p with
  | zero => rfl
  | succ n ih => rw [gmulLoop, gmulLoop, ← ih, apply_ite xtime, xtime_xor]

theorem gmul_xtime_left (a b : Byte) : gmul (xtime a) b = xtime (gmul a b) := gmulLoop_xtime 8 a b 0

theorem gmul_xtime_iterate_left (n : Nat) (a b : Byte) : gmul (xtime^[n] a) b = xtime^[n] (gmul a b) := by
  induction n generalizing a with
  | zero => rfl
  | succ n ih => rw [Function.iterate_succ_apply, ih, Function.iterate_succ_apply, gmul_xtime_left]

theorem gmul_twoPow (a : Byte) (i : Fin 8) : gmul a (BitVec.twoPow 8 i) = xtime^[i] a := by
  fin_cases i <;> simp [gmul, gmulLoop]

theorem twoPow_eq_xtime_iterate (i : Fin 8) : BitVec.twoPow 8 i = xtime^[i] 0x01#8 := by
  revert i; decide

@[simp] theorem gmul_one_left (b : Byte) : gmul 0x01#8 b = b := by
  induction b using byte_sum_induction with
  | zero => rw [gmul_zero_right]
  | power i => rw [gmul_twoPow, twoPow_eq_xtime_iterate]
  | sum b b' hb hb' => rw [gmul_xor_right, hb, hb']

theorem gmul_comm (a b : Byte) : gmul a b = gmul b a := by
  induction b using byte_sum_induction with
  | zero => rw [gmul_zero_left, gmul_zero_right]
  | power i => rw [gmul_twoPow, twoPow_eq_xtime_iterate, gmul_xtime_iterate_left, gmul_one_left]
  | sum b b' hb hb' => rw [gmul_xor_left, gmul_xor_right, hb, hb']

@[simp] theorem gmul_one_right (a : Byte) : gmul a 0x01#8 = a := by rw [gmul_comm, gmul_one_left]

theorem gmul_assoc (a b c : Byte) : gmul (gmul a b) c = gmul a (gmul b c) := by
  induction c using byte_sum_induction with
  | zero => simp only [gmul_zero_right]
  | power i => rw [gmul_twoPow, gmul_twoPow, gmul_comm a (xtime^[i] b), gmul_xtime_iterate_left, gmul_comm b a]
  | sum c c' hc hc' => simp only [gmul_xor_right, hc, hc']

end Sys2Proof.Machine
end

section
/-! The S-box (R213 to R215): the affine map of the field inverse, and a permutation that InvS undoes. -/

namespace Sys2Proof.Machine

/-- The byte that the affine map of R213 takes to `y`. -/
def sBoxAffineInverse (y : Byte) : Byte := y.rotateLeft 1 ^^^ y.rotateLeft 3 ^^^ y.rotateLeft 6 ^^^ 0x05#8

/-- The byte whose affine image the table of R214 lists for `b`. -/
def fieldInverse (b : Byte) : Byte := sBoxAffineInverse (sBox b)

theorem fieldInverse_zero : fieldInverse 0x00 = 0x00 := by decide

/-- The tables of R214 and R215, entry by entry: S lists the affine image of the inverse, and InvS takes it back. -/
theorem sBox_entries : ∀ b : Byte,
    (b ≠ 0 → gmul b (fieldInverse b) = 0x01#8) ∧ sBoxAffine (fieldInverse b) = sBox b ∧ invSBox (sBox b) = b := by
  decide +kernel

theorem gmul_fieldInverse {b : Byte} (hb : b ≠ 0) : gmul b (fieldInverse b) = 0x01#8 := (sBox_entries b).1 hb

theorem sBoxAffine_fieldInverse (b : Byte) : sBoxAffine (fieldInverse b) = sBox b := (sBox_entries b).2.1

@[simp] theorem invSBox_sBox (b : Byte) : invSBox (sBox b) = b := (sBox_entries b).2.2

/-- On finitely many bytes the left inverse is a right inverse. -/
@[simp] theorem sBox_invSBox (b : Byte) : sBox (invSBox b) = b := by
  have hleft : Function.LeftInverse invSBox sBox := invSBox_sBox
  exact hleft.rightInverse_of_surjective (Finite.surjective_of_injective hleft.injective) b

theorem eq_fieldInverse_of_gmul_eq_one {b z : Byte} (h : gmul b z = 0x01#8) : z = fieldInverse b := by
  have hb : b ≠ 0 := by
    rintro rfl
    exact absurd ((gmul_zero_left z).symm.trans h) (by decide)
  calc z = gmul (gmul b (fieldInverse b)) z := by rw [gmul_fieldInverse hb, gmul_one_left]
    _ = gmul (fieldInverse b) (gmul b z) := by rw [gmul_comm b, gmul_assoc]
    _ = fieldInverse b := by rw [h, gmul_one_right]

theorem getLsbD_sBoxAffine (z : Byte) {i : Nat} (hi : i < 8) :
    (sBoxAffine z).getLsbD i =
      (z.getLsbD i ^^ z.getLsbD ((i + 4) % 8) ^^ z.getLsbD ((i + 5) % 8) ^^ z.getLsbD ((i + 6) % 8)
        ^^ z.getLsbD ((i + 7) % 8) ^^ (0x63#8).getLsbD i) := by
  simp only [sBoxAffine, BitVec.getLsbD_xor, BitVec.getLsbD_rotateRight]
  interval_cases i <;> simp

/-- Settles O30: the table yields an inverse of every nonzero byte, and no other byte is one. -/
theorem sBoxMeetsItsDefinition : Obligations.SBoxMeetsItsDefinition := by
  refine ⟨fun b hb => ⟨fieldInverse b, gmul_fieldInverse hb⟩, fun b z i hz hi => ?_, invSBox_sBox⟩
  have hinv : z = fieldInverse b := by
    rcases hz with ⟨rfl, rfl⟩ | hone
    · exact fieldInverse_zero.symm
    · exact eq_fieldInverse_of_gmul_eq_one hone
  rw [← sBoxAffine_fieldInverse, ← hinv, getLsbD_sBoxAffine z hi]

end Sys2Proof.Machine
end

section
/-! The round primitives other than column mixing (R216 to R219, R222): byte by byte, and what undoes what. -/

namespace Sys2Proof.Machine

theorem Block.byte_map (f : Byte → Byte) (s : Block) {k : Nat} (hk : k < 16) :
    (s.map (Quad.map f)).byte k = f (s.byte k) := by
  interval_cases k <;> rfl

theorem byte_addRoundKey (s k : Block) {i : Nat} (hi : i < 16) : (addRoundKey s k).byte i = s.byte i ^^^ k.byte i := by
  interval_cases i <;> rfl

theorem byte_shiftRows (s : Block) {r c : Nat} (hr : r < 4) (hc : c < 4) :
    (shiftRows s).byte (r + 4 * c) = s.byte (r + 4 * ((c + r) % 4)) := by
  interval_cases r <;> interval_cases c <;> rfl

theorem byte_invShiftRows (s : Block) {r c : Nat} (hr : r < 4) (hc : c < 4) :
    (invShiftRows s).byte (r + 4 * ((c + r) % 4)) = s.byte (r + 4 * c) := by
  interval_cases r <;> interval_cases c <;> rfl

@[simp] theorem invShiftRows_shiftRows (s : Block) : invShiftRows (shiftRows s) = s := rfl

@[simp] theorem shiftRows_invShiftRows (s : Block) : shiftRows (invShiftRows s) = s := rfl

theorem Quad.xor_xor_cancel (q k : Quad) : (q.xor k).xor k = q := by
  simp only [Quad.xor, BitVec.xor_assoc, BitVec.xor_self, BitVec.xor_zero]

@[simp] theorem addRoundKey_addRoundKey (s k : Block) : addRoundKey (addRoundKey s k) k = s := by
  simp only [addRoundKey, Quad.xor_xor_cancel]

/-- Settles O31, primitive by primitive. -/
theorem roundPrimitivesByteByByte : Obligations.RoundPrimitivesByteByByte :=
  ⟨fun s _ hk => ⟨Block.byte_map sBox s hk, Block.byte_map invSBox s hk⟩, fun s k _ hi => byte_addRoundKey s k hi,
    addRoundKey_addRoundKey, fun s _ _ hr hc => ⟨byte_shiftRows s hr hc, byte_invShiftRows s hr hc⟩,
    invShiftRows_shiftRows⟩

/-- A column map undone column by column. -/
theorem Block.map_map_cancel {f g : Quad → Quad} (h : ∀ q, g (f q) = q) (s : Block) : (s.map f).map g = s := by
  simp only [Block.map, h]

theorem Quad.map_map_cancel {f g : Byte → Byte} (h : ∀ b, g (f b) = b) (q : Quad) : (q.map f).map g = q := by
  simp only [Quad.map, h]

@[simp] theorem invSubBytes_subBytes (s : Block) : invSubBytes (subBytes s) = s :=
  Block.map_map_cancel (Quad.map_map_cancel invSBox_sBox) s

@[simp] theorem subBytes_invSubBytes (s : Block) : subBytes (invSubBytes s) = s :=
  Block.map_map_cancel (Quad.map_map_cancel sBox_invSBox) s

end Sys2Proof.Machine
end

section
/-! Column mixing (R220, R221): both maps are products with a circulant matrix over the field, and the two matrices are
inverse to each other. -/

namespace Sys2Proof.Machine

/-- The product of a column with the circulant matrix whose first row is `c`. -/
def circulantMul (c q : Quad) : Quad :=
  ⟨gmul c.a0 q.a0 ^^^ gmul c.a1 q.a1 ^^^ gmul c.a2 q.a2 ^^^ gmul c.a3 q.a3,
   gmul c.a3 q.a0 ^^^ gmul c.a0 q.a1 ^^^ gmul c.a1 q.a2 ^^^ gmul c.a2 q.a3,
   gmul c.a2 q.a0 ^^^ gmul c.a3 q.a1 ^^^ gmul c.a0 q.a2 ^^^ gmul c.a1 q.a3,
   gmul c.a1 q.a0 ^^^ gmul c.a2 q.a1 ^^^ gmul c.a3 q.a2 ^^^ gmul c.a0 q.a3⟩

/-- The first row of the product of two circulant matrices, given by theirs. -/
def circulantRow (c d : Quad) : Quad :=
  ⟨gmul c.a0 d.a0 ^^^ gmul c.a1 d.a3 ^^^ gmul c.a2 d.a2 ^^^ gmul c.a3 d.a1,
   gmul c.a0 d.a1 ^^^ gmul c.a1 d.a0 ^^^ gmul c.a2 d.a3 ^^^ gmul c.a3 d.a2,
   gmul c.a0 d.a2 ^^^ gmul c.a1 d.a1 ^^^ gmul c.a2 d.a0 ^^^ gmul c.a3 d.a3,
   gmul c.a0 d.a3 ^^^ gmul c.a1 d.a2 ^^^ gmul c.a2 d.a1 ^^^ gmul c.a3 d.a0⟩

theorem circulantMul_circulantMul (c d q : Quad) :
    circulantMul c (circulantMul d q) = circulantMul (circulantRow c d) q := by
  simp only [circulantMul, circulantRow, gmul_xor_left, gmul_xor_right, gmul_assoc, Quad.mk.injEq]
  refine ⟨?_, ?_, ?_, ?_⟩ <;> ac_rfl

/-- The row `1 0 0 0` is that of the identity matrix. -/
@[simp] theorem circulantMul_identity (q : Quad) : circulantMul ⟨0x01#8, 0x00#8, 0x00#8, 0x00#8⟩ q = q := by
  simp [circulantMul]

theorem circulantMul_cancel {c d : Quad} (h : circulantRow c d = ⟨0x01#8, 0x00#8, 0x00#8, 0x00#8⟩) (q : Quad) :
    circulantMul c (circulantMul d q) = q := by
  rw [circulantMul_circulantMul, h, circulantMul_identity]

theorem mixColumn_eq (q : Quad) : mixColumn q = circulantMul ⟨0x02, 0x03, 0x01#8, 0x01#8⟩ q := by
  simp only [mixColumn, circulantMul, gmul_one_left]

theorem invMixColumn_eq (q : Quad) : invMixColumn q = circulantMul ⟨0x0E, 0x0B, 0x0D, 0x09⟩ q := rfl

theorem invMixColumn_mixColumn (q : Quad) : invMixColumn (mixColumn q) = q := by
  rw [mixColumn_eq, invMixColumn_eq, circulantMul_cancel (by decide)]

theorem mixColumn_invMixColumn (q : Quad) : mixColumn (invMixColumn q) = q := by
  rw [mixColumn_eq, invMixColumn_eq, circulantMul_cancel (by decide)]

@[simp] theorem invMixColumns_mixColumns (s : Block) : invMixColumns (mixColumns s) = s :=
  Block.map_map_cancel invMixColumn_mixColumn s

@[simp] theorem mixColumns_invMixColumns (s : Block) : mixColumns (invMixColumns s) = s :=
  Block.map_map_cancel mixColumn_invMixColumn s

/-- Settles O32, by the product of the two circulant matrices in every column. -/
theorem invMixColumnsUndoesMixColumns : Obligations.InvMixColumnsUndoesMixColumns := invMixColumns_mixColumns

end Sys2Proof.Machine
end

section
/-! The inverse law of the cipher (R225): each step of R224 undoes one step of R223. -/

namespace Sys2Proof.Machine

/-- The round keys of the nine full rounds, in Cipher's order. -/
def middleKeys (rk : RoundKeys) : List Block := [rk[1], rk[2], rk[3], rk[4], rk[5], rk[6], rk[7], rk[8], rk[9]]

theorem cipher_eq (b : Block) (rk : RoundKeys) :
    cipher b rk = finalRound ((middleKeys rk).foldl fullRound (addRoundKey b rk[0])) rk[10] := rfl

theorem invCipher_eq (b : Block) (rk : RoundKeys) :
    invCipher b rk = invFinalRound ((middleKeys rk).reverse.foldl invFullRound (addRoundKey b rk[10])) rk[0] := rfl

/-- Rounds undone in reverse order: when behind `w` each `g` undoes one `f`, a run of `g` over the reversed keys undoes
the run of `f`. -/
theorem foldl_reverse_undo {f g : Block → Block → Block} {w : Block → Block}
    (h : ∀ s k, g (w (f s k)) k = w s) (ks : List Block) (s : Block) :
    ks.reverse.foldl g (w (ks.foldl f s)) = w s := by
  induction ks generalizing s with
  | nil => rfl
  | cons k ks ih => rw [List.foldl_cons, List.reverse_cons, List.foldl_append, ih, List.foldl_cons, List.foldl_nil, h]

theorem invFullRound_undo (s k : Block) :
    invFullRound (shiftRows (subBytes (fullRound s k))) k = shiftRows (subBytes s) := by
  simp only [invFullRound, fullRound, invShiftRows_shiftRows, invSubBytes_subBytes, addRoundKey_addRoundKey,
    invMixColumns_mixColumns]

theorem fullRound_undo (s k : Block) :
    fullRound (invSubBytes (invShiftRows (invFullRound s k))) k = invSubBytes (invShiftRows s) := by
  simp only [invFullRound, fullRound, shiftRows_invShiftRows, subBytes_invSubBytes, addRoundKey_addRoundKey,
    mixColumns_invMixColumns]

theorem invCipher_cipher (b : Block) (rk : RoundKeys) : invCipher (cipher b rk) rk = b := by
  rw [invCipher_eq, cipher_eq, finalRound, addRoundKey_addRoundKey,
    foldl_reverse_undo (w := fun s => shiftRows (subBytes s)) invFullRound_undo, invFinalRound, invShiftRows_shiftRows,
    invSubBytes_subBytes, addRoundKey_addRoundKey]

theorem cipher_invCipher (b : Block) (rk : RoundKeys) : cipher (invCipher b rk) rk = b := by
  have hrounds := foldl_reverse_undo (w := fun s => invSubBytes (invShiftRows s)) fullRound_undo (middleKeys rk).reverse
  rw [List.reverse_reverse] at hrounds
  rw [cipher_eq, invCipher_eq, invFinalRound, addRoundKey_addRoundKey, hrounds, finalRound, subBytes_invSubBytes,
    shiftRows_invShiftRows, addRoundKey_addRoundKey]

/-- Settles O33, in both directions, by undoing the rounds one at a time. -/
theorem inverseCipherUndoesCipher : Obligations.InverseCipherUndoesCipher :=
  fun b rk => ⟨invCipher_cipher b rk, cipher_invCipher b rk⟩

end Sys2Proof.Machine
end

section
/-! ENCRYPT and DECRYPT on a written source (R262, R263): the state they complete in, and that one undoes the other in
BUF (R316). -/

namespace Sys2Proof.Machine

/-- A region of whole blocks transformed twice, the second function undoing the first. -/
theorem transformBlocks_cancel {f g : Block → Block} (h : ∀ b, g (f b) = b) {n : Nat} {bs : List Byte}
    (hlen : bs.length = 16 * n) : transformBlocks g n (transformBlocks f n bs) = bs := by
  induction n generalizing bs with
  | zero => exact (List.length_eq_zero_iff.1 hlen).symm
  | succ n ih =>
    have hfirst : (f (Block.ofBytes (bs.take 16))).toBytes.length = 16 := Block.length_toBytes _
    rw [transformBlocks, transformBlocks, List.take_left' hfirst, List.drop_left' hfirst, Block.ofBytes_toBytes, h,
      Block.toBytes_ofBytes _ (by rw [List.length_take]; omega), ih (by rw [List.length_drop]; omega),
      List.take_append_drop]

/-- The state a block command with block function `f` completes in when its source region holds `data`. -/
def State.afterBlocks (s : State) (f : Block → Block) (data : List Byte) : State :=
  { s with
    mem := s.mem.writeBytes s.dstOffset (transformBlocks f (s.lenBytes / 16) data)
    result := s.cur.len, err := 0x00, busy := false, done := true }

theorem State.settle_transformBody_of_bytesAt {s : State} (f : Block → Block) {data : List Byte}
    (hok : s.blockOperandsOk) (hdata : s.mem.bytesAt s.srcOffset s.lenBytes = some data) :
    s.settle (s.transformBody f) = s.afterBlocks f data := by
  rcases State.transformBody_cases s f with ⟨e, he, -⟩ | ⟨-, hbody⟩
  · rw [(State.blockChecks_eq_none s).2 hok] at he
    exact absurd he nofun
  · rw [hbody, Memory.readBytes_of_bytesAt _ _ _ _ _ hdata]
    rfl

theorem exec_encrypt_of_bytesAt {s : State} {data : List Byte} (hok : s.blockOperandsOk)
    (hdata : s.mem.bytesAt s.srcOffset s.lenBytes = some data) :
    exec .encrypt s = .next (s.afterBlocks (fun b => cipher b s.rk) data) :=
  congrArg _ (State.settle_transformBody_of_bytesAt _ hok hdata)

theorem exec_decrypt_of_bytesAt {s : State} {data : List Byte} (hok : s.blockOperandsOk)
    (hdata : s.mem.bytesAt s.srcOffset s.lenBytes = some data) :
    exec .decrypt s = .next (s.afterBlocks (fun b => invCipher b s.rk) data) :=
  congrArg _ (State.settle_transformBody_of_bytesAt _ hok hdata)

/-- The destination region after a block command. -/
theorem State.bytesAt_afterBlocks {s : State} (f : Block → Block) (data : List Byte) (hok : s.blockOperandsOk) :
    (s.afterBlocks f data).mem.bytesAt s.dstOffset s.lenBytes = some (transformBlocks f (s.lenBytes / 16) data) := by
  obtain ⟨-, ⟨-, -, hlen⟩, -⟩ := hok
  have hwritten := s.mem.bytesAt_writeBytes s.dstOffset (transformBlocks f (s.lenBytes / 16) data)
  rwa [length_transformBlocks, Nat.mul_div_cancel' (Nat.dvd_of_mod_eq_zero hlen)] at hwritten

/-- Settles O24: DECRYPT reads the blocks ENCRYPT wrote, and InvCipher undoes Cipher in each of them. -/
theorem decryptRestoresEncryptedRegion : Obligations.DecryptRestoresEncryptedRegion := by
  intro s t x data hok hdata hexec hok'
  obtain rfl := Host.Outcome.next.inj ((exec_encrypt_of_bytesAt hok hdata).symm.trans hexec)
  refine ⟨_, exec_decrypt_of_bytesAt hok' (State.bytesAt_afterBlocks _ data hok), rfl, ?_⟩
  have hlen : data.length = 16 * (s.lenBytes / 16) := by
    obtain ⟨-, ⟨-, -, hmod⟩, -⟩ := hok
    exact ((Memory.bytesAt_eq_some _ _ _ _).1 hdata).1.trans (Nat.mul_div_cancel' (Nat.dvd_of_mod_eq_zero hmod)).symm
  have hdst := State.bytesAt_afterBlocks (fun b => invCipher b s.rk)
    (transformBlocks (fun b => cipher b s.rk) (s.lenBytes / 16) data) hok'
  exact hdst.trans (congrArg some (transformBlocks_cancel (fun b => invCipher_cipher b s.rk) hlen))

end Sys2Proof.Machine
end

section
/-! NOP (R260), and the block commands, said once for both: ENCRYPT and DECRYPT differ in their block function only (R262,
R263). What the checks raise (R261), what the command completes in, and what its destination region then holds. -/

namespace Sys2Proof.Machine

/-- Settles O11: NOP has no body, so its completion is all of it. -/
theorem nopOnlyCompletes : Obligations.NopOnlyCompletes := fun _ => rfl

theorem exec_blockCommand (inverse : Bool) (s : State) :
    exec (blockCommand inverse) s = .next (s.settle (s.transformBody (blockFunction inverse s.rk))) := by
  cases inverse <;> rfl

theorem blockCommand_of_encrypt_or_decrypt {i : Instr} (h : i = .encrypt ∨ i = .decrypt) :
    ∃ inverse, i = blockCommand inverse := by
  rcases h with rfl | rfl
  · exact ⟨false, rfl⟩
  · exact ⟨true, rfl⟩

/-! The checks. -/

theorem exec_blockCommand_of_blockChecks (inverse : Bool) {s : State} {e : ErrCode} (h : s.blockChecks = some e) :
    exec (blockCommand inverse) s = .next (s.complete e) := by
  rw [exec_blockCommand, State.transformBody, h]
  rfl

theorem State.blockChecks_of_not_ksv {s : State} (hksv : s.ksv = false) : s.blockChecks = some .invalidState := by
  rw [State.blockChecks, hksv]
  rfl

theorem State.blockChecks_of_misaligned {s : State} (hksv : s.ksv = true)
    (h : s.srcOffset % 16 ≠ 0 ∨ s.dstOffset % 16 ≠ 0 ∨ s.lenBytes % 16 ≠ 0) : s.blockChecks = some .align := by
  have halign : (aligned16 s.srcOffset && aligned16 s.dstOffset && aligned16 s.lenBytes) = false := by
    simp only [← Bool.not_eq_true, Bool.and_eq_true, aligned16_iff]
    omega
  rw [State.blockChecks, hksv, halign]
  rfl

section Aligned

variable {s : State} (hksv : s.ksv = true) (hsrc : s.srcOffset % 16 = 0) (hdst : s.dstOffset % 16 = 0)
  (hlen : s.lenBytes % 16 = 0)

include hksv hsrc hdst hlen

theorem State.blockChecks_of_range (h : s.bufSize < s.srcOffset + s.lenBytes ∨ s.bufSize < s.dstOffset + s.lenBytes) :
    s.blockChecks = some .range := by
  have hfits : (s.fits s.srcOffset s.lenBytes && s.fits s.dstOffset s.lenBytes) = false := by
    simp only [← Bool.not_eq_true, Bool.and_eq_true, State.fits_iff]
    omega
  rw [State.blockChecks, hksv, (aligned16_iff _).2 hsrc, (aligned16_iff _).2 hdst, (aligned16_iff _).2 hlen, hfits]
  rfl

theorem State.blockChecks_of_overlapping (hsrcFits : s.srcOffset + s.lenBytes ≤ s.bufSize)
    (hdstFits : s.dstOffset + s.lenBytes ≤ s.bufSize) (hne : s.srcOffset ≠ s.dstOffset)
    (hlow : s.srcOffset < s.dstOffset + s.lenBytes) (hhigh : s.dstOffset < s.srcOffset + s.lenBytes) :
    s.blockChecks = some .overlap := by
  rw [State.blockChecks, hksv, (aligned16_iff _).2 hsrc, (aligned16_iff _).2 hdst, (aligned16_iff _).2 hlen,
    (State.fits_iff _ _ _).2 hsrcFits, (State.fits_iff _ _ _).2 hdstFits, (overlapping_iff _ _ _).2 ⟨hne, hlow, hhigh⟩]
  rfl

end Aligned

/-- Settles O19, check by check. -/
theorem blockChecksInOrder : Obligations.BlockChecksInOrder := by
  rintro s i _ _ _ hi rfl rfl rfl
  obtain ⟨inverse, rfl⟩ := blockCommand_of_encrypt_or_decrypt hi
  refine ⟨fun hksv => ?_, fun hksv hmis => ?_, fun hksv hsrc hdst hlen hrange => ?_,
    fun hksv hsrc hdst hlen hsrcFits hdstFits hne hlow hhigh => ?_⟩
  · exact exec_blockCommand_of_blockChecks inverse (State.blockChecks_of_not_ksv hksv)
  · exact exec_blockCommand_of_blockChecks inverse (State.blockChecks_of_misaligned hksv hmis)
  · exact exec_blockCommand_of_blockChecks inverse (State.blockChecks_of_range hksv hsrc hdst hlen hrange)
  · exact exec_blockCommand_of_blockChecks inverse
      (State.blockChecks_of_overlapping hksv hsrc hdst hlen hsrcFits hdstFits hne hlow hhigh)

theorem exec_blockCommand_of_not_ok (inverse : Bool) {s : State} (h : ¬ s.blockOperandsOk) :
    ∃ e : Byte, (e = 0x03 ∨ e = 0x06 ∨ e = 0x05 ∨ e = 0x07) ∧
      exec (blockCommand inverse) s = .next { s with err := e, busy := false, done := true } := by
  obtain ⟨e, he⟩ := Option.ne_none_iff_exists'.1 (mt (State.blockChecks_eq_none s).1 h)
  refine ⟨e.code, ?_, exec_blockCommand_of_blockChecks inverse he⟩
  rcases State.blockChecks_codes s e he with rfl | rfl | rfl | rfl
  · exact .inl rfl
  · exact .inr (.inl rfl)
  · exact .inr (.inr (.inl rfl))
  · exact .inr (.inr (.inr rfl))

/-! The destination region. -/

/-- What the command reads from its source region, a byte never written as a free value. -/
def State.sourceData (s : State) : List Byte := (s.mem.readBytes s.srcOffset s.lenBytes s.draws).1

theorem exec_blockCommand_of_ok (inverse : Bool) {s : State} (hok : s.blockOperandsOk) :
    exec (blockCommand inverse) s = .next { s.afterBlocks (blockFunction inverse s.rk) s.sourceData with
      draws := (s.mem.readBytes s.srcOffset s.lenBytes s.draws).2 } := by
  rw [exec_blockCommand, State.transformBody, (State.blockChecks_eq_none s).2 hok]
  rfl

theorem exec_blockCommand_of_bytesAt (inverse : Bool) {s : State} {data : List Byte} (hok : s.blockOperandsOk)
    (hdata : s.mem.bytesAt s.srcOffset s.lenBytes = some data) :
    exec (blockCommand inverse) s = .next (s.afterBlocks (blockFunction inverse s.rk) data) := by
  rw [exec_blockCommand, State.settle_transformBody_of_bytesAt _ hok hdata]

/-- Every destination block is the transformed source block (R265). -/
theorem State.bytesAt_block_afterBlocks (s : State) (f : Block → Block) (data : List Byte) {i : Nat}
    (hi : i < s.lenBytes / 16) :
    (s.afterBlocks f data).mem.bytesAt (s.dstOffset + 16 * i) 16 =
      some (f (Block.ofBytes ((data.drop (16 * i)).take 16))).toBytes := by
  have hregion := s.mem.bytesAt_writeBytes s.dstOffset (transformBlocks f (s.lenBytes / 16) data)
  rw [length_transformBlocks] at hregion
  rw [← transformBlocks_block f _ _ _ hi]
  exact Memory.bytesAt_slice _ _ _ _ hregion _ _ (by omega)

theorem State.read_afterBlocks {s : State} (f : Block → Block) (data : List Byte) (hok : s.blockOperandsOk) (x : Nat) :
    (s.afterBlocks f data).mem.read x =
      if s.dstOffset ≤ x ∧ x < s.dstOffset + s.lenBytes then
        (transformBlocks f (s.lenBytes / 16) data)[x - s.dstOffset]?
      else s.mem.read x := by
  obtain ⟨-, ⟨-, -, hlen⟩, -⟩ := hok
  have hread := Memory.read_writeBytes (transformBlocks f (s.lenBytes / 16) data) s.mem s.dstOffset x
  rwa [length_transformBlocks, Nat.mul_div_cancel' (Nat.dvd_of_mod_eq_zero hlen)] at hread

theorem State.read_afterBlocks_outside {s : State} (f : Block → Block) (data : List Byte) (hok : s.blockOperandsOk)
    {x : Nat} (hx : x < s.dstOffset ∨ s.dstOffset + s.lenBytes ≤ x) :
    (s.afterBlocks f data).mem.read x = s.mem.read x := by
  rw [State.read_afterBlocks f data hok, if_neg (by omega)]

theorem State.read_afterBlocks_inside {s : State} (f : Block → Block) (data : List Byte) (hok : s.blockOperandsOk)
    {x : Nat} (hlow : s.dstOffset ≤ x) (hhigh : x < s.dstOffset + s.lenBytes) :
    (s.afterBlocks f data).mem.read x ≠ none := by
  have hlen : s.lenBytes % 16 = 0 := by
    obtain ⟨-, ⟨-, -, hlen⟩, -⟩ := hok
    exact hlen
  rw [State.read_afterBlocks f data hok, if_pos ⟨hlow, hhigh⟩, ne_eq, List.getElem?_eq_none_iff,
    length_transformBlocks]
  omega

/-- Both block commands on a written source, in one statement over the block function. -/
theorem exec_blockCommand_transforms (inverse : Bool) (s : State) (hok : s.blockOperandsOk)
    (hwritten : s.written s.srcOffset s.lenBytes = true) :
    ∃ m, exec (blockCommand inverse) s = .next
        { s with mem := m, result := s.cur.len, err := 0x00, busy := false, done := true } ∧
      (∀ i, i < s.lenBytes / 16 → ∃ b, s.mem.bytesAt (s.srcOffset + 16 * i) 16 = some b ∧
        m.bytesAt (s.dstOffset + 16 * i) 16 = some (blockFunction inverse s.rk (Block.ofBytes b)).toBytes) ∧
      (∀ x, x < s.dstOffset ∨ s.dstOffset + s.lenBytes ≤ x → m.read x = s.mem.read x) := by
  obtain ⟨data, hdata⟩ := Option.isSome_iff_exists.1 hwritten
  refine ⟨_, exec_blockCommand_of_bytesAt inverse hok hdata, fun i hi => ?_,
    fun x hx => State.read_afterBlocks_outside _ data hok hx⟩
  exact ⟨_, Memory.bytesAt_slice _ _ _ _ hdata (16 * i) 16 (by omega), State.bytesAt_block_afterBlocks s _ data hi⟩

/-- Settles O20: ENCRYPT is the block command with Cipher. -/
theorem encryptTransformsEachBlock : Obligations.EncryptTransformsEachBlock :=
  fun s => ⟨exec_blockCommand_of_not_ok false, exec_blockCommand_transforms false s⟩

/-- Settles O21: DECRYPT is the block command with InvCipher. -/
theorem decryptTransformsEachBlock : Obligations.DecryptTransformsEachBlock :=
  fun s => ⟨exec_blockCommand_of_not_ok true, exec_blockCommand_transforms true s⟩

/-- Settles O22: a written source block passes through the read as it stands, whatever bytes around it are open. -/
theorem blockCommandsCompleteOnAnyData : Obligations.BlockCommandsCompleteOnAnyData := by
  intro s inverse hok
  refine ⟨_, _, exec_blockCommand_of_ok inverse hok,
    fun x hlow hhigh => State.read_afterBlocks_inside _ s.sourceData hok hlow hhigh, fun i b hi hb => ?_,
    fun x hx => State.read_afterBlocks_outside _ s.sourceData hok hx⟩
  have hslice : (s.sourceData.drop (16 * i)).take 16 = b :=
    Memory.readBytes_slice _ _ _ _ _ _ _ (by change _ ≤ s.cur.len.toNat; omega) hb
  rw [← hslice]
  exact State.bytesAt_block_afterBlocks s _ _ hi

/-- Settles O23: each of the two destination blocks is the block function of the same source block. -/
theorem blocksAreIndependent : Obligations.BlocksAreIndependent := by
  intro s t s' t' inverse i j b hs ht hrk hi hj hsb htb hs' ht'
  obtain ⟨m, d, hsx, -, hsblock, -⟩ := blockCommandsCompleteOnAnyData s inverse hs
  obtain ⟨m', d', htx, -, htblock, -⟩ := blockCommandsCompleteOnAnyData t inverse ht
  obtain rfl := Host.Outcome.next.inj (hsx.symm.trans hs')
  obtain rfl := Host.Outcome.next.inj (htx.symm.trans ht')
  have hsdst := hsblock i b hi hsb
  have htdst := htblock j b hj htb
  rw [← hrk] at htdst
  exact ⟨hsdst ▸ Option.some_ne_none _, hsdst.trans htdst.symm⟩

end Sys2Proof.Machine
end

section
/-! The lanes (R51, R266, R270): what one lane move does, said once, and how many moves a job still takes. -/

namespace Sys2Proof.Machine

/-- An idle lane has taken block `i`. -/
def LaneArray.afterTake (j : LaneJob) (g : LaneArray) (l i : Nat) : LaneArray :=
  { g with
    lanes := g.lanes.set l (some
      { block := i
        state := j.firstMix (Block.ofBytes (g.mem.readBytes (j.src + 16 * i) 16 g.draws).1)
        round := 0 })
    waiting := g.waiting.erase i
    draws := (g.mem.readBytes (j.src + 16 * i) 16 g.draws).2 }

/-- The lane holding `w` has done its next round. -/
def LaneArray.afterRound (j : LaneJob) (g : LaneArray) (l : Nat) (w : Lane) : LaneArray :=
  { g with lanes := g.lanes.set l (some { w with state := j.roundOf (w.round + 1) w.state, round := w.round + 1 }) }

/-- The lane holding `w` has written its block. -/
def LaneArray.afterStore (j : LaneJob) (g : LaneArray) (l : Nat) (w : Lane) : LaneArray :=
  { g with
    lanes := g.lanes.set l none
    mem := g.mem.writeBytes (j.dst + 16 * w.block) w.state.toBytes }

section Moves

variable {j : LaneJob} {g g' : LaneArray} {mv : LaneMove} {l i : Nat} {w : Lane}

theorem laneStep_take (hl : g.lanes[l]? = some none) (hi : i ∈ g.waiting) :
    laneStep j g (.take l i) = some (g.afterTake j l i) := by
  simp only [laneStep, hl, if_pos hi]
  rfl

theorem laneStep_advance (hl : g.lanes[l]? = some (some w)) :
    laneStep j g (.advance l) = some (if w.round < 10 then g.afterRound j l w else g.afterStore j l w) := by
  simp only [laneStep, hl, apply_ite some]
  rfl

/-- All that a lane move can be. -/
theorem laneStep_cases (h : laneStep j g mv = some g') :
    (∃ l i, g.lanes[l]? = some none ∧ i ∈ g.waiting ∧ g' = g.afterTake j l i) ∨
    (∃ l w, g.lanes[l]? = some (some w) ∧ w.round < 10 ∧ g' = g.afterRound j l w) ∨
    (∃ l w, g.lanes[l]? = some (some w) ∧ 10 ≤ w.round ∧ g' = g.afterStore j l w) := by
  cases mv with
  | take l i =>
    match hl : g.lanes[l]? with
    | some none =>
      by_cases hi : i ∈ g.waiting
      · rw [laneStep_take hl hi, Option.some.injEq] at h
        exact .inl ⟨l, i, hl, hi, h.symm⟩
      · simp [laneStep, hl, hi] at h
    | some (some _) => simp [laneStep, hl] at h
    | none => simp [laneStep, hl] at h
  | advance l =>
    match hl : g.lanes[l]? with
    | some (some w) =>
      rw [laneStep_advance hl, Option.some.injEq] at h
      by_cases hw : w.round < 10
      · exact .inr (.inl ⟨l, w, hl, hw, by rw [← h, if_pos hw]⟩)
      · exact .inr (.inr ⟨l, w, hl, by omega, by rw [← h, if_neg hw]⟩)
    | some none => simp [laneStep, hl] at h
    | none => simp [laneStep, hl] at h

/-- What every lane move keeps, a run of lane moves keeps. -/
theorem laneRun_keeps {P : LaneArray → Prop} {moves : List LaneMove}
    (hstep : ∀ {g mv g'}, P g → laneStep j g mv = some g' → P g') (hg : P g) (hrun : laneRun j moves g = some g') :
    P g' := by
  induction moves generalizing g with
  | nil =>
    obtain rfl := Option.some.inj hrun
    exact hg
  | cons mv mvs ih =>
    rw [laneRun] at hrun
    split at hrun
    · next g₁ hmv => exact ih (hstep hg hmv) hrun
    · exact absurd hrun nofun

theorem laneStep_length (h : laneStep j g mv = some g') : g'.lanes.length = g.lanes.length := by
  rcases laneStep_cases h with ⟨l, i, -, -, rfl⟩ | ⟨l, w, -, -, rfl⟩ | ⟨l, w, -, -, rfl⟩
  all_goals exact List.length_set

theorem laneStep_wf (hwf : g.mem.wf = true) (h : laneStep j g mv = some g') : g'.mem.wf = true := by
  rcases laneStep_cases h with ⟨l, i, -, -, rfl⟩ | ⟨l, w, -, -, rfl⟩ | ⟨l, w, -, -, rfl⟩
  · exact hwf
  · exact hwf
  · exact Memory.wf_writeBytes _ _ _ hwf

end Moves

theorem perm_cons_eraseIdx {lanes : List (Option Lane)} {l : Nat} {x : Option Lane} (hl : lanes[l]? = some x) :
    lanes.Perm (x :: lanes.eraseIdx l) := by
  obtain ⟨hlt, rfl⟩ := List.getElem?_eq_some_iff.1 hl
  exact (List.getElem_cons_eraseIdx_perm hlt).symm

theorem set_perm_cons_eraseIdx {lanes : List (Option Lane)} {l : Nat} {x : Option Lane} (hl : lanes[l]? = some x)
    (y : Option Lane) : (lanes.set l y).Perm (y :: lanes.eraseIdx l) :=
  List.set_perm_cons_eraseIdx (List.getElem?_eq_some_iff.1 hl).1 y

/-! The moves still to come. -/

/-- The moves a lane still makes: its remaining rounds and the write. -/
def laneWork : Option Lane → Nat
  | none => 0
  | some w => 10 - w.round + 1

/-- The moves a job still takes: twelve for a waiting block, and those of the working lanes. -/
def LaneArray.workLeft (g : LaneArray) : Nat := 12 * g.waiting.length + (g.lanes.map laneWork).sum

theorem sum_laneWork_set {lanes : List (Option Lane)} {l : Nat} {x : Option Lane} (hl : lanes[l]? = some x)
    (y : Option Lane) :
    ((lanes.set l y).map laneWork).sum + laneWork x = (lanes.map laneWork).sum + laneWork y := by
  rw [((perm_cons_eraseIdx hl).map laneWork).sum_eq, ((set_perm_cons_eraseIdx hl y).map laneWork).sum_eq]
  simp only [List.map_cons, List.sum_cons]
  omega

@[simp] theorem LaneArray.workLeft_start (nlanes n : Nat) (m : Memory) (d : Nat) :
    (LaneArray.start nlanes n m d).workLeft = 12 * n := by
  simp [LaneArray.workLeft, LaneArray.start, laneWork]

/-- Every move is one of those still to come. -/
theorem laneStep_workLeft {j : LaneJob} {g g' : LaneArray} {mv : LaneMove} (h : laneStep j g mv = some g') :
    g'.workLeft + 1 = g.workLeft := by
  rcases laneStep_cases h with ⟨l, i, hl, hi, rfl⟩ | ⟨l, w, hl, hw, rfl⟩ | ⟨l, w, hl, hw, rfl⟩
  · have hlane := sum_laneWork_set hl (some
      ⟨i, j.firstMix (Block.ofBytes (g.mem.readBytes (j.src + 16 * i) 16 g.draws).1), 0⟩)
    have hpos := List.length_pos_of_mem hi
    simp only [LaneArray.workLeft, LaneArray.afterTake, List.length_erase_of_mem hi, laneWork] at hlane ⊢
    omega
  · have hlane := sum_laneWork_set hl (some { w with state := j.roundOf (w.round + 1) w.state, round := w.round + 1 })
    simp only [LaneArray.workLeft, LaneArray.afterRound, laneWork] at hlane ⊢
    omega
  · have hlane := sum_laneWork_set hl none
    simp only [LaneArray.workLeft, LaneArray.afterStore, laneWork] at hlane ⊢
    omega

theorem laneRun_workLeft {j : LaneJob} {g g' : LaneArray} {moves : List LaneMove}
    (hrun : laneRun j moves g = some g') : g'.workLeft + moves.length = g.workLeft := by
  induction moves generalizing g with
  | nil =>
    obtain rfl := Option.some.inj hrun
    rfl
  | cons mv mvs ih =>
    rw [laneRun] at hrun
    split at hrun
    · next g₁ hmv =>
      have hrest := ih hrun
      have hfirst := laneStep_workLeft hmv
      rw [List.length_cons]
      omega
    · exact absurd hrun nofun

theorem LaneArray.finished_iff (g : LaneArray) : g.finished = true ↔ g.waiting = [] ∧ ∀ x ∈ g.lanes, x = none := by
  simp [LaneArray.finished]

/-- A job that is not finished has a lane that can move: a working lane, or any lane while all are idle. -/
theorem exists_laneStep_of_not_finished (j : LaneJob) {g : LaneArray} (hlanes : 1 ≤ g.lanes.length)
    (hfin : g.finished = false) : ∃ mv g', laneStep j g mv = some g' := by
  by_cases hidle : ∀ x ∈ g.lanes, x = none
  · have hwaiting : g.waiting ≠ [] := fun hnil =>
      absurd ((LaneArray.finished_iff g).2 ⟨hnil, hidle⟩) (Bool.eq_false_iff.1 hfin)
    obtain ⟨i, hi⟩ := List.exists_mem_of_ne_nil _ hwaiting
    have hfirst : g.lanes[0]? = some none := by
      rw [List.getElem?_eq_getElem hlanes, hidle _ (List.getElem_mem hlanes)]
    exact ⟨_, _, laneStep_take hfirst hi⟩
  · push Not at hidle
    obtain ⟨x, hx, hne⟩ := hidle
    obtain ⟨w, rfl⟩ := Option.ne_none_iff_exists'.1 hne
    obtain ⟨l, hl⟩ := List.mem_iff_getElem?.1 hx
    exact ⟨_, _, laneStep_advance hl⟩

/-- Settles O60: the moves made and the moves still to come are twelve a block, and the number of lanes never changes. -/
theorem lanesFinishTheJob : Obligations.LanesFinishTheJob := by
  refine ⟨Nat.le_add_right 1 _, fun j nlanes n d m moves g hone hrun => ⟨?_, fun hfin => ?_⟩⟩
  · have hwork := laneRun_workLeft hrun
    rw [LaneArray.workLeft_start] at hwork
    omega
  · have hlength : g.lanes.length = nlanes :=
      laneRun_keeps (P := fun g => g.lanes.length = nlanes) (fun hg hmv => (laneStep_length hmv).trans hg)
        List.length_replicate hrun
    exact exists_laneStep_of_not_finished j (hlength ▸ hone) hfin

end Sys2Proof.Machine
end

section
/-! Lanes in any order (R267, R268): while a job runs, BUF holds the results of the blocks that are neither waiting nor in
a lane, and is as at acceptance everywhere else; so the order of the moves leaves no trace at the end. -/

namespace Sys2Proof.Machine

/-- What a lane's state is after `r` rounds on the source block `b`. -/
def LaneJob.stateAfter (j : LaneJob) (b : Block) : Nat → Block
  | 0 => j.firstMix b
  | r + 1 => j.roundOf (r + 1) (j.stateAfter b r)

/-- Ten rounds are the whole transform (R223, R224). -/
theorem LaneJob.stateAfter_ten (j : LaneJob) (b : Block) : j.stateAfter b 10 = blockFunction j.inverse j.rk b := by
  obtain ⟨inverse, rk, src, dst⟩ := j
  cases inverse <;>
    simp [LaneJob.stateAfter, LaneJob.firstMix, LaneJob.roundOf, blockFunction, cipher, invCipher, roundKeyAt_eq]

/-- Block `i` of a region's bytes. -/
def sourceBlock (data : List Byte) (i : Nat) : Block := Block.ofBytes ((data.drop (16 * i)).take 16)

theorem transformBlocks_getElem? (f : Block → Block) {n i k : Nat} (data : List Byte) (hi : i < n) (hk : k < 16) :
    (transformBlocks f n data)[16 * i + k]? = (f (sourceBlock data i)).toBytes[k]? := by
  rw [sourceBlock, ← transformBlocks_block f n i data hi, List.getElem?_take, if_pos hk, List.getElem?_drop]

/-! The blocks whose result is not in BUF yet. -/

/-- The blocks that lanes are working on. -/
def laneBlocks (lanes : List (Option Lane)) : List Nat := lanes.filterMap (Option.map Lane.block)

/-- The blocks that are waiting or in a lane. -/
def LaneArray.pending (g : LaneArray) : List Nat := g.waiting ++ laneBlocks g.lanes

theorem laneBlocks_perm {lanes rest : List (Option Lane)} {x : Option Lane} (h : lanes.Perm (x :: rest)) :
    (laneBlocks lanes).Perm ((x.map Lane.block).toList ++ laneBlocks rest) := by
  refine (h.filterMap _).trans ?_
  cases x <;> exact .refl _

section Pending

variable {g : LaneArray} {l i : Nat} {w : Lane} (j : LaneJob)

theorem LaneArray.pending_start (nlanes n : Nat) (m : Memory) (d : Nat) :
    (LaneArray.start nlanes n m d).pending = List.range n := by
  simp [LaneArray.pending, LaneArray.start, laneBlocks]

theorem LaneArray.pending_of_finished (h : g.finished = true) : g.pending = [] := by
  obtain ⟨hwaiting, hidle⟩ := (LaneArray.finished_iff g).1 h
  rw [LaneArray.pending, hwaiting, List.nil_append, laneBlocks, List.filterMap_eq_nil_iff]
  intro x hx
  rw [hidle x hx]
  rfl

/-- A block taken goes from waiting to the lane. -/
theorem LaneArray.pending_afterTake (hl : g.lanes[l]? = some none) (hi : i ∈ g.waiting) :
    (g.afterTake j l i).pending.Perm g.pending := by
  have hbefore := laneBlocks_perm (perm_cons_eraseIdx hl)
  have hafter := laneBlocks_perm (set_perm_cons_eraseIdx hl
    (some ⟨i, j.firstMix (Block.ofBytes (g.mem.readBytes (j.src + 16 * i) 16 g.draws).1), 0⟩))
  calc
    List.Perm (g.afterTake j l i).pending (g.waiting.erase i ++ i :: laneBlocks (g.lanes.eraseIdx l)) :=
      hafter.append_left _
    List.Perm _ (i :: g.waiting.erase i ++ laneBlocks (g.lanes.eraseIdx l)) := List.perm_middle
    List.Perm _ (g.waiting ++ laneBlocks (g.lanes.eraseIdx l)) := (List.perm_cons_erase hi).symm.append_right _
    List.Perm _ g.pending := hbefore.symm.append_left _

theorem LaneArray.pending_afterRound (hl : g.lanes[l]? = some (some w)) :
    (g.afterRound j l w).pending.Perm g.pending := by
  have hbefore := laneBlocks_perm (perm_cons_eraseIdx hl)
  have hafter := laneBlocks_perm (set_perm_cons_eraseIdx hl
    (some { w with state := j.roundOf (w.round + 1) w.state, round := w.round + 1 }))
  exact (hafter.trans hbefore.symm).append_left _

/-- A block written is pending no more. -/
theorem LaneArray.pending_afterStore (hl : g.lanes[l]? = some (some w)) :
    g.pending.Perm (w.block :: (g.afterStore j l w).pending) := by
  have hbefore := laneBlocks_perm (perm_cons_eraseIdx hl)
  have hafter := laneBlocks_perm (set_perm_cons_eraseIdx hl none)
  exact ((hbefore.trans (hafter.symm.cons w.block)).append_left _).trans List.perm_middle

end Pending

/-! The job on its course. -/

/-- A job of `n` blocks with source bytes `data` on its way from BUF `m`: no block is pending twice, each working lane
holds its block's state, and BUF is `m` but for the results of the blocks that are no longer pending. -/
structure LaneArray.OnCourse (j : LaneJob) (n : Nat) (data : List Byte) (m : Memory) (g : LaneArray) : Prop where
  nodup : g.pending.Nodup
  bound : ∀ i ∈ g.pending, i < n
  lanes : ∀ w, some w ∈ g.lanes → w.round ≤ 10 ∧ w.state = j.stateAfter (sourceBlock data w.block) w.round
  read : ∀ x, g.mem.read x =
    if j.dst ≤ x ∧ x < j.dst + 16 * n ∧ (x - j.dst) / 16 ∉ g.pending then
      (transformBlocks (blockFunction j.inverse j.rk) n data)[x - j.dst]?
    else m.read x

namespace LaneArray.OnCourse

variable {j : LaneJob} {n : Nat} {data : List Byte} {m : Memory} {g g' : LaneArray} {l i : Nat} {w : Lane}

theorem start (nlanes d : Nat) : (LaneArray.start nlanes n m d).OnCourse j n data m where
  nodup := by rw [LaneArray.pending_start]; exact List.nodup_range
  bound := by rw [LaneArray.pending_start]; exact fun i hi => List.mem_range.1 hi
  lanes w hw := absurd (List.eq_of_mem_replicate hw) (Option.some_ne_none w)
  read x := by
    simp only [LaneArray.pending_start, List.mem_range]
    rw [if_neg (by omega)]
    rfl

/-- A move that writes nothing to BUF. -/
theorem of_perm (h : g.OnCourse j n data m) (hpending : g'.pending.Perm g.pending) (hmem : g'.mem = g.mem)
    (hlanes : g'.lanes = g.lanes.set l (some w)) (hround : w.round ≤ 10)
    (hstate : w.state = j.stateAfter (sourceBlock data w.block) w.round) : g'.OnCourse j n data m where
  nodup := hpending.nodup_iff.2 h.nodup
  bound i hi := h.bound i (hpending.mem_iff.1 hi)
  lanes v hv := by
    rw [hlanes] at hv
    rcases List.mem_or_eq_of_mem_set hv with hold | hnew
    · exact h.lanes v hold
    · obtain rfl := Option.some.inj hnew
      exact ⟨hround, hstate⟩
  read x := by simp only [hmem, h.read x, hpending.mem_iff]

theorem afterRound (h : g.OnCourse j n data m) (hl : g.lanes[l]? = some (some w)) (hw : w.round < 10) :
    (g.afterRound j l w).OnCourse j n data m := by
  obtain ⟨-, hstate⟩ := h.lanes w (List.mem_of_getElem? hl)
  refine h.of_perm (LaneArray.pending_afterRound j hl) rfl rfl hw ?_
  rw [hstate]
  rfl

/-- What a lane writes is the result of its block. -/
theorem state_of_last_round (h : g.OnCourse j n data m) (hl : g.lanes[l]? = some (some w)) (hw : 10 ≤ w.round) :
    w.state = blockFunction j.inverse j.rk (sourceBlock data w.block) := by
  obtain ⟨hround, hstate⟩ := h.lanes w (List.mem_of_getElem? hl)
  rw [hstate, Nat.le_antisymm hround hw, LaneJob.stateAfter_ten]

theorem afterStore (h : g.OnCourse j n data m) (hl : g.lanes[l]? = some (some w)) (hw : 10 ≤ w.round) :
    (g.afterStore j l w).OnCourse j n data m := by
  have hperm := LaneArray.pending_afterStore j hl
  obtain ⟨hdone, hnodup⟩ := List.nodup_cons.1 (hperm.nodup_iff.1 h.nodup)
  have hmem : ∀ i, i ∈ g.pending ↔ i = w.block ∨ i ∈ (g.afterStore j l w).pending :=
    fun i => hperm.mem_iff.trans List.mem_cons
  have hbound := h.bound w.block ((hmem _).2 (.inl rfl))
  refine ⟨hnodup, fun i hi => h.bound i ((hmem i).2 (.inr hi)), fun v hv => ?_, fun x => ?_⟩
  · rcases List.mem_or_eq_of_mem_set hv with hold | hnew
    · exact h.lanes v hold
    · exact absurd hnew (Option.some_ne_none v)
  · change (g.mem.writeBytes _ _).read x = _
    rw [Memory.read_writeBytes, Block.length_toBytes, h.read x]
    by_cases hx : j.dst + 16 * w.block ≤ x ∧ x < j.dst + 16 * w.block + 16
    · have hblock : (x - j.dst) / 16 = w.block := by omega
      have hindex : x - j.dst = 16 * w.block + (x - (j.dst + 16 * w.block)) := by omega
      rw [if_pos hx, if_pos ⟨by omega, by omega, hblock ▸ hdone⟩, hindex,
        transformBlocks_getElem? _ data hbound (by omega), h.state_of_last_round hl hw]
    · have hsame : j.dst ≤ x → ((x - j.dst) / 16 ∉ g.pending ↔ (x - j.dst) / 16 ∉ (g.afterStore j l w).pending) := by
        intro hlow
        have hother : (x - j.dst) / 16 ≠ w.block := by omega
        rw [hmem, or_iff_right hother]
      rw [if_neg hx]
      exact if_congr (and_congr_right fun hlow => and_congr_right fun _ => hsame hlow) rfl rfl

section Regions

variable (hdata : m.bytesAt j.src (16 * n) = some data)
  (hregions : j.src = j.dst ∨ j.dst + 16 * n ≤ j.src ∨ j.src + 16 * n ≤ j.dst)

include hdata hregions

/-- The source bytes of a pending block are as at acceptance: in place no other block's result is written over them, and
else none is. -/
theorem bytesAt_source (h : g.OnCourse j n data m) (hi : i ∈ g.pending) :
    g.mem.bytesAt (j.src + 16 * i) 16 = some ((data.drop (16 * i)).take 16) := by
  have hin := h.bound i hi
  have hold := Memory.bytesAt_slice m _ _ _ hdata (16 * i) 16 (by omega)
  rw [Memory.bytesAt_eq_some] at hold ⊢
  refine ⟨hold.1, fun k hk => ?_⟩
  rw [h.read, if_neg, hold.2 k hk]
  rintro ⟨hlow, hhigh, hdone⟩
  have hblock : (j.src + 16 * i + k - j.dst) / 16 = i := by omega
  exact hdone (hblock.symm ▸ hi)

theorem afterTake (h : g.OnCourse j n data m) (hl : g.lanes[l]? = some none) (hi : i ∈ g.waiting) :
    (g.afterTake j l i).OnCourse j n data m := by
  have hsource := bytesAt_source hdata hregions h (List.mem_append_left _ hi)
  refine h.of_perm (LaneArray.pending_afterTake j hl hi) rfl rfl (Nat.zero_le _) ?_
  rw [Memory.readBytes_of_bytesAt _ _ _ _ _ hsource]
  rfl

theorem laneStep (h : g.OnCourse j n data m) {mv : LaneMove} (hmv : laneStep j g mv = some g') :
    g'.OnCourse j n data m := by
  rcases laneStep_cases hmv with ⟨l, i, hl, hi, rfl⟩ | ⟨l, w, hl, hw, rfl⟩ | ⟨l, w, hl, hw, rfl⟩
  · exact afterTake hdata hregions h hl hi
  · exact h.afterRound hl hw
  · exact h.afterStore hl hw

end Regions

/-- At the end BUF is what writing all the blocks at once leaves. -/
theorem read_of_finished (h : g.OnCourse j n data m) (hfin : g.finished = true) (x : Nat) :
    g.mem.read x = (m.writeBytes j.dst (transformBlocks (blockFunction j.inverse j.rk) n data)).read x := by
  rw [h.read x, LaneArray.pending_of_finished hfin, Memory.read_writeBytes, length_transformBlocks]
  simp only [List.not_mem_nil, not_false_eq_true, and_true]

end LaneArray.OnCourse

/-- Settles O25: every run keeps the job on its course, and BUF is determined by its reads. -/
theorem laneOrderDoesNotMatter : Obligations.LaneOrderDoesNotMatter := by
  intro s t inverse nlanes moves g hwf hok hwritten hrun hfin hexec
  obtain ⟨data, hdata⟩ := Option.isSome_iff_exists.1 hwritten
  obtain rfl := Host.Outcome.next.inj ((exec_blockCommand_of_bytesAt inverse hok hdata).symm.trans hexec)
  obtain ⟨-, ⟨-, -, hmod⟩, -, hregions⟩ := hok
  have hlen : 16 * (s.cur.len.toNat / 16) = s.cur.len.toNat := Nat.mul_div_cancel' (Nat.dvd_of_mod_eq_zero hmod)
  have hcourse : g.OnCourse ⟨inverse, s.rk, s.cur.src.toNat, s.cur.dst.toNat⟩ (s.cur.len.toNat / 16) data s.mem :=
    laneRun_keeps (fun hg hmv => .laneStep (by rw [hlen]; exact hdata) (by rw [hlen]; exact hregions) hg hmv)
      (.start nlanes s.draws) hrun
  refine Memory.ext_read _ _ ?_ (Memory.wf_writeBytes _ _ _ hwf) (hcourse.read_of_finished hfin)
  exact laneRun_keeps (P := fun g => g.mem.wf = true) laneStep_wf hwf hrun

end Sys2Proof.Machine
end

section
/-! The register port: what a write to CMD does in the life of a command (R300, R301), and every word-aligned offset
written (R292) and read (R291, R88). -/

namespace Sys2Proof.Machine

/-! Writes. -/

theorem State.writeCmd_of_busy {s : State} (hbusy : s.busy = true) (w : Word) :
    s.writeCmd w = { s with ovr := true } := by
  simp [State.writeCmd, hbusy]

/-- Settles O7: a busy engine drops the word and notes the overrun. -/
theorem cmdWriteWhileBusyOverruns : Obligations.CmdWriteWhileBusyOverruns := by
  intro s w hbusy
  rw [State.afterWrite_cmd, State.writeCmd_of_busy hbusy]

/-- Acceptance as R300 writes it, the code being the low byte of the word. -/
theorem State.accept_eq (s : State) (w : Word) :
    s.accept w =
      { s with
        cmd := w
        cur := { word := w, opc := w.extractLsb' 0 8, src := s.src, dst := s.dst, len := s.len }
        done := false
        busy := true } := by
  rw [State.accept, opcOf_eq_extractLsb']

/-- Settles O6: an idle engine accepts, and a busy one only notes the overrun. -/
theorem acceptanceLatchesOperands : Obligations.AcceptanceLatchesOperands := by
  intro s w
  rw [State.afterWrite_cmd]
  refine ⟨fun hidle => ?_, fun hbusy => ?_⟩
  · rw [State.writeCmd_of_idle hidle, State.accept_eq]
  · rw [State.writeCmd_of_busy hbusy]
    exact ⟨rfl, rfl⟩

/-- A STATUS write clears each of the two flags by its own bit (R35). -/
theorem State.writeStatus_eq (s : State) (v : Word) :
    s.writeStatus v =
      { s with done := if v.getLsbD 1 then false else s.done, ovr := if v.getLsbD 3 then false else s.ovr } := by
  have clear (flag bit : Bool) : (flag && !bit) = if bit then false else flag := by cases bit <;> simp
  simp only [State.writeStatus, clear]

/-- Only the named offset of a register reaches it. -/
theorem Reg.eq_offset_of_ofOffset {o : Word} {r : Reg} (halign : o.toNat % 4 = 0) (h : Reg.ofOffset o.toNat = r)
    (hr : r ≠ .reserved) : o = r.offset := by
  subst h
  exact BitVec.eq_of_toNat_eq (Reg.offset_ofOffset halign hr).symm

/-- The offsets that are none of the six writable registers' ignore a write (R46, R292). -/
theorem State.writeReg_ofOffset_of_other (s : State) {o v : Word} (halign : o.toNat % 4 = 0)
    (hctrl : o ≠ Reg.ctrl.offset) (hstatus : o ≠ Reg.status.offset) (hcmd : o ≠ Reg.cmd.offset)
    (hsrc : o ≠ Reg.src.offset) (hdst : o ≠ Reg.dst.offset) (hlen : o ≠ Reg.len.offset) :
    s.writeReg (Reg.ofOffset o.toNat) v = s := by
  have hreg {r : Reg} (h : Reg.ofOffset o.toNat = r) (hr : r ≠ .reserved) := Reg.eq_offset_of_ofOffset halign h hr
  cases h : Reg.ofOffset o.toNat with
  | ctrl => exact absurd (hreg h (by decide)) hctrl
  | status => exact absurd (hreg h (by decide)) hstatus
  | cmd => exact absurd (hreg h (by decide)) hcmd
  | src => exact absurd (hreg h (by decide)) hsrc
  | dst => exact absurd (hreg h (by decide)) hdst
  | len => exact absurd (hreg h (by decide)) hlen
  | id | err | result | nr | bufSize | rkw | reserved => rfl

/-- Settles O35, by the six writable registers; every other offset ignores the write. -/
theorem registerWritesByOffset : Obligations.RegisterWritesByOffset := by
  intro s o v halign _
  split
  case isTrue ho => rw [ho, State.afterWrite_ctrl, State.writeCtrl]
  case isFalse hctrl =>
  split
  case isTrue ho => rw [ho, State.afterWrite_status, State.writeStatus_eq]
  case isFalse hstatus =>
  split
  case isTrue ho => rw [ho, State.afterWrite_cmd, State.writeCmd, State.accept_eq]
  case isFalse hcmd =>
  split
  case isTrue ho => rw [ho]; simp [State.writeReg]
  case isFalse hsrc =>
  split
  case isTrue ho => rw [ho]; simp [State.writeReg]
  case isFalse hdst =>
  split
  case isTrue ho => rw [ho]; simp [State.writeReg]
  case isFalse hlen => exact s.writeReg_ofOffset_of_other halign hctrl hstatus hcmd hsrc hdst hlen

/-! Reads. -/

/-- No register read draws a free value but one of the open window (R88, R381). -/
theorem State.regDraws_eq_zero {s : State} {r : Reg} (h : ∀ k, r = .rkw k → s.windowOpen = false) :
    s.regDraws r = 0 := by
  cases r with
  | rkw k => simp [State.regDraws, h k rfl]
  | id | ctrl | status | err | cmd | src | dst | len | result | nr | bufSize | reserved => rfl

/-- The window takes up the offsets 0x100 to 0x1AF (R33). -/
theorem Reg.ofOffset_of_window {o : Nat} (h : 0x100 ≤ o ∧ o < 0x1B0) : Reg.ofOffset o = .rkw ((o - 0x100) / 4) := by
  rw [Reg.ofOffset_high o (by omega), if_pos (by omega)]
  congr 1
  omega

/-- Past the named registers every other offset is reserved (R33). -/
theorem Reg.ofOffset_of_reserved {o : Nat} (hhigh : 44 ≤ o) (h : ¬(0x100 ≤ o ∧ o < 0x1B0)) :
    Reg.ofOffset o = .reserved := by
  rw [Reg.ofOffset_high o hhigh, if_neg (by omega)]

theorem Reg.window_of_ofOffset_eq_rkw {o k : Nat} (h : Reg.ofOffset o = .rkw k) : 0x100 ≤ o ∧ o < 0x1B0 := by
  by_contra hout
  by_cases hhigh : 44 ≤ o
  · simp [Reg.ofOffset_of_reserved hhigh hout] at h
  · obtain ⟨q, hq⟩ : ∃ q, q = o / 4 := ⟨_, rfl⟩
    have hlow : q < 11 := by omega
    rw [Reg.ofOffset, ← hq] at h
    interval_cases q <;> cases h

/-- Settles O36: the window is closed where it is read, so no read draws; the values are those of the eleven named
registers below offset 44, and of the window and the reserved offsets above. -/
theorem registerReadsByOffset : Obligations.RegisterReadsByOffset := by
  intro s o halign _ hwindow
  have hclosed (hin : 0x100 ≤ o.toNat ∧ o.toNat < 0x1B0) : s.windowOpen = false :=
    s.windowOpen_eq_false fun ⟨hbusy, hsched⟩ => hwindow ⟨hbusy, word_of_scheduleCommand hsched⟩ hin
  refine ⟨?_, ?_⟩
  · rw [State.afterRead_regRead,
      State.regDraws_eq_zero fun k hk => hclosed (Reg.window_of_ofOffset_eq_rkw hk)]
    rfl
  by_cases hlow : o.toNat < 44
  · obtain ⟨q, hq, rfl⟩ : ∃ q, q < 11 ∧ o = BitVec.ofNat 32 (4 * q) :=
      ⟨o.toNat / 4, by omega, BitVec.eq_of_toNat_eq (by rw [BitVec.toNat_ofNat]; omega)⟩
    interval_cases q <;> rfl
  · iterate 11 rw [if_neg (by bv_omega)]
    rw [State.readValue_regRead]
    split
    · next hin => simp [Reg.ofOffset_of_window hin, State.readReg, hclosed hin]
    · next hout => rw [Reg.ofOffset_of_reserved (by omega) hout]; rfl

end Sys2Proof.Machine
end

section
/-! The buffer port of an idle engine: bytes and little-endian words (R81, R83), written (R295) and read (R294). -/

namespace Sys2Proof.Machine

/-- Byte `k` of a word in the order it is stored (R81). -/
theorem leBytes_getElem? (v : Word) {k : Nat} (hk : k < 4) : (leBytes v)[k]? = some (v.extractLsb' (8 * k) 8) := by
  interval_cases k <;> rfl

theorem State.writeBuffer_of_idle {s : State} (hidle : s.busy = false) (hsafe : s.hazard = false) (a : Nat)
    (bs : List Byte) : s.writeBuffer a bs = { s with mem := s.mem.writeBytes a bs } := by
  simp [State.writeBuffer, hidle, hsafe]

/-- A read of written bytes returns them and draws nothing. -/
theorem State.readBuffer_of_bytesAt {s : State} {a n : Nat} {bs : List Byte} (hidle : s.busy = false)
    (h : s.mem.bytesAt a n = some bs) : s.readBuffer a n = (bs, s.draws) := by
  rw [State.readBuffer_of_idle hidle, Memory.readBytes_of_bytesAt _ _ _ _ _ h]

theorem Memory.bytesAt_one {m : Memory} {a : Nat} {b : Byte} (h : m.read a = some b) : m.bytesAt a 1 = some [b] := by
  simp [Memory.bytesAt, h]

theorem State.readValue_bufRead8_of_read {s : State} {a : Word} {b : Byte} (hidle : s.busy = false)
    (h : s.mem.read a.toNat = some b) : s.readValue (bufRead 8 a) = b.setWidth 32 := by
  rw [State.readValue_bufRead8, State.readBuffer_of_bytesAt hidle (Memory.bytesAt_one h), leWordOf_single]

theorem State.readValue_bufRead32_of_bytesAt {s : State} {a : Word} {bs : List Byte} (hidle : s.busy = false)
    (h : s.mem.bytesAt a.toNat 4 = some bs) : s.readValue (bufRead 32 a) = leWordOf bs := by
  rw [State.readValue_bufRead32, State.readBuffer_of_bytesAt hidle h]

/-- Settles O42: a write stores the bytes of its value, and a read of written bytes returns them. -/
theorem bufferWordsAreTheirBytes : Obligations.BufferWordsAreTheirBytes := by
  intro s a v hidle
  refine ⟨fun hsafe hfits => ?_, fun hsafe => ?_, fun b hb => ?_, fun b0 b1 b2 b3 hbytes => ?_⟩
  · have hlen : (leBytes v).length = 4 := rfl
    have hstored : (s.mem.writeBytes a.toNat (leBytes v)).bytesAt a.toNat 4 = some (leBytes v) :=
      Memory.bytesAt_writeBytes ..
    have hidle' : State.busy { s with mem := s.mem.writeBytes a.toNat (leBytes v) } = false := hidle
    refine ⟨s.mem.writeBytes a.toNat (leBytes v), s.writeBuffer_of_idle hidle hsafe _ _, ?_, fun k hk => ?_,
      fun x hx => ?_⟩
    · exact (State.readValue_bufRead32_of_bytesAt hidle' hstored).trans (leWordOf_leBytes v)
    · have hoff : (a + BitVec.ofNat 32 k).toNat = a.toNat + k := by bv_omega
      refine State.readValue_bufRead8_of_read hidle' ?_
      rw [hoff, Memory.read_writeBytes, hlen, if_pos (by omega), Nat.add_sub_cancel_left, leBytes_getElem? v hk]
    · rw [Memory.read_writeBytes, hlen, if_neg (by omega)]
  · refine ⟨s.mem.write a.toNat (v.extractLsb' 0 8), s.writeBuffer_of_idle hidle hsafe _ _, ?_, fun x hx => ?_⟩
    · exact State.readValue_bufRead8_of_read hidle (Memory.read_write_same ..)
    · exact Memory.read_write_other _ _ _ _ hx
  · refine ⟨State.readValue_bufRead8_of_read hidle hb, ?_⟩
    rw [State.afterRead_bufRead8, State.readBuffer_of_bytesAt hidle (Memory.bytesAt_one hb)]
  · refine ⟨?_, ?_⟩
    · rw [State.readValue_bufRead32_of_bytesAt hidle hbytes, ← leWord_eq_or]
      rfl
    · rw [State.afterRead_bufRead32, State.readBuffer_of_bytesAt hidle hbytes]

end Sys2Proof.Machine
end

section
/-! The host's move: a malformed transaction is refused (R293, R296), every other one is performed, and where the host
and its program stand afterwards (R310, R311). -/

namespace Sys2Proof.Machine

/-! Which transactions are malformed. -/

theorem Txn.refusal_eq_none_of_reg {t : Txn} {n : Nat} (hsp : t.space = .reg) :
    t.refusal n = none ↔ t.width = 32 ∧ t.offset.toNat % 4 = 0 ∧ t.offset.toNat < 0x1000 := by
  simp only [Txn.refusal, hsp]
  split_ifs <;> simp <;> omega

theorem Txn.refusal_eq_none_of_buf {t : Txn} {n : Nat} (hsp : t.space = .buf) :
    t.refusal n = none ↔
      (t.width = 8 ∧ t.offset.toNat < n) ∨
      (t.width = 32 ∧ t.offset.toNat % 4 = 0 ∧ t.offset.toNat + 4 ≤ n) := by
  simp only [Txn.refusal, hsp]
  split_ifs <;> simp <;> omega

/-! The step of a statement with a transaction. -/

theorem step_of_host {s : State} (hturn : s.nextTurn = .host) : step s = hostStep s.takeTurn := by
  simp [step, hturn]

section Statement

variable {s : State} {st : Stmt} {t : Txn}

theorem step_refused (hturn : s.nextTurn = .host) (hst : s.statement = some st) (ht : st.txn? = some t)
    (hr : t.refusal s.bufSize ≠ none) : ∃ r, step s = .refused r := by
  obtain ⟨r, hr⟩ := Option.ne_none_iff_exists'.mp hr
  have hst' : s.takeTurn.statement = some st := hst
  exact ⟨r, by simp [step_of_host hturn, hostStep, hst', State.runStmt, ht, hr]⟩

theorem step_performed (hturn : s.nextTurn = .host) (hst : s.statement = some st) (ht : st.txn? = some t)
    (hr : t.refusal s.bufSize = none) :
    step s = .next ((s.takeTurn.perform t).goto (s.takeTurn.nextHpc st)) := by
  have hst' : s.takeTurn.statement = some st := hst
  simp [step_of_host hturn, hostStep, hst', State.runStmt, ht, hr]

/-- A next state of the host's move is the one its transaction and its statement lead to. -/
theorem eq_of_step_performed {s' : State} (hturn : s.nextTurn = .host) (hst : s.statement = some st)
    (ht : st.txn? = some t) (hstep : step s = .next s') :
    s' = (s.takeTurn.perform t).goto (s.takeTurn.nextHpc st) := by
  by_cases hr : t.refusal s.bufSize = none
  · exact Host.Outcome.next.inj (hstep.symm.trans (step_performed hturn hst ht hr))
  · obtain ⟨r, hrefused⟩ := step_refused hturn hst ht hr
    cases hstep.symm.trans hrefused

theorem step_of_hostEnded (hturn : s.nextTurn = .host) (hend : s.statement = some .halt ∨ s.statement = none) :
    step s = .next s.takeTurn := by
  rw [step_of_host hturn, hostStep]
  rcases hend with hst | hst
  · rw [show s.takeTurn.statement = some .halt from hst]; rfl
  · rw [show s.takeTurn.statement = none from hst]

end Statement

/-- Settles O40: the three defects are those of `Txn.refusal_eq_none_of_reg`. -/
theorem malformedRegisterTransactionsRefused : Obligations.MalformedRegisterTransactionsRefused := by
  intro s t hturn hbind hsp
  obtain ⟨st, hst, ht⟩ := Option.bind_eq_some_iff.mp hbind
  refine ⟨fun hbad => step_refused hturn hst ht ?_, fun hwidth halign hoffset =>
    ⟨_, step_performed hturn hst ht ((Txn.refusal_eq_none_of_reg hsp).mpr ⟨hwidth, halign, hoffset⟩)⟩⟩
  rw [ne_eq, Txn.refusal_eq_none_of_reg hsp]
  omega

/-- Settles O41: the defects are those of `Txn.refusal_eq_none_of_buf`. -/
theorem malformedBufferTransactionsRefused : Obligations.MalformedBufferTransactionsRefused := by
  intro s t hturn hst hsp
  refine ⟨fun hbad => step_refused hturn hst rfl ?_, fun hgood =>
    ⟨_, step_performed hturn hst rfl ((Txn.refusal_eq_none_of_buf hsp).mpr hgood)⟩⟩
  rw [ne_eq, Txn.refusal_eq_none_of_buf hsp]
  omega

/-! What a transaction leaves of the host. -/

theorem State.writeReg_host (s : State) (r : Reg) (v : Word) : (s.writeReg r v).host = s.host := by
  rcases writeReg_cases s r v with ⟨-, -, hw⟩ | ⟨-, -, hw⟩ | ⟨-, hw⟩ | ⟨-, -, hw⟩ | ⟨-, -, hw⟩ | ⟨x, y, z, hw⟩
  all_goals simp [hw]

theorem State.writeBuffer_host (s : State) (a : Nat) (bs : List Byte) : (s.writeBuffer a bs).host = s.host := by
  rcases writeBuffer_cases s a bs with ⟨-, hw⟩ | ⟨-, -, hw⟩ | ⟨-, -, hw⟩
  all_goals rw [hw]

@[simp] theorem State.afterWrite_host (s : State) (t : Txn) : (s.afterWrite t).host = s.host := by
  unfold State.afterWrite
  split
  · exact s.writeReg_host _ _
  · exact s.writeBuffer_host _ _

@[simp] theorem State.afterRead_host (s : State) (t : Txn) : (s.afterRead t).host = s.host := by
  unfold State.afterRead
  split <;> rfl

/-- A performed write leaves what the write leaves, and the host at its next statement. -/
theorem State.perform_goto_of_write (s : State) {t : Txn} (hdir : t.dir = .write) (n : Nat) :
    (s.perform t).goto n = { s.afterWrite t with host := { s.host with hpc := n } } := by
  simp [State.perform, hdir, State.goto]

/-- A performed read also notes its value. -/
theorem State.perform_goto_of_read (s : State) {t : Txn} (hdir : t.dir = .read) (n : Nat) :
    (s.perform t).goto n =
      { s.afterRead t with host := { s.host with hpc := n, reads := s.readValue t :: s.host.reads } } := by
  simp [State.perform, hdir, State.goto, State.noteRead]

/-- What a read returns does not depend on the queue of moves. -/
theorem State.readValue_takeTurn (s : State) (t : Txn) : s.takeTurn.readValue t = s.readValue t := rfl

/-- Settles O54: the step of a statement is its transaction, performed, and the host's next position. -/
theorem hostStatements : Obligations.HostStatements := by
  rintro s u hturn rfl
  refine ⟨fun t s' hst hdir hstep => ?_, fun t s' hst hdir hstep => ?_, fun o m l s' hst hstep => ?_,
    step_of_hostEnded hturn⟩
  · rw [eq_of_step_performed hturn hst rfl hstep, State.perform_goto_of_write _ hdir]
    rfl
  · rw [eq_of_step_performed hturn hst rfl hstep, State.perform_goto_of_read _ hdir]
    rfl
  · rw [eq_of_step_performed hturn hst rfl hstep, State.perform_goto_of_read _ rfl]
    rfl

end Sys2Proof.Machine
end

section
/-! The engine's move: it performs the decoded command (R302) and completes it (R303), and what a command leaves
unchanged outside BUF (R304). -/

namespace Sys2Proof.Machine

theorem step_of_engine {s : State} (hturn : s.nextTurn = .engine) : step s = engineStep s.takeTurn := by
  simp [step, hturn]

@[simp] theorem State.afterHazard_false (w : Word) (r : Host.Outcome State Fault Refusal) :
    State.afterHazard false w r = r := by
  cases r <;> rfl

theorem State.runLatched_of_decode {s : State} {i : Instr} (h : decode s.cur.word = .ok i) :
    s.runLatched = exec i s := by
  simp [State.runLatched, h]

/-- Settles O4: without a hazard nothing of the command's outcome is opened. -/
theorem stepRunsTheDecodedCommand : Obligations.StepRunsTheDecodedCommand := by
  intro s i hturn hbusy hsafe _ hword
  rw [step_of_engine hturn]
  calc engineStep s.takeTurn
      = s.takeTurn.runLatched := by simp [engineStep, hbusy, hsafe]
    _ = exec i s.takeTurn := State.runLatched_of_decode hword

/-- With an empty queue a busy engine moves (R303). -/
theorem State.nextTurn_of_busy {s : State} (hbusy : s.busy = true) (h : s.nextTurn = .engine ∨ s.turns = []) :
    s.nextTurn = .engine := by
  rcases h with hturn | hempty
  · exact hturn
  · simp [State.nextTurn, hempty, hbusy]

/-- Settles O8: the latched word completes, and what a hazard opens is not BUSY or DONE. -/
theorem acceptedCommandCompletes : Obligations.AcceptedCommandCompletes := by
  intro s hbusy hnext
  obtain ⟨t, hrun, hengine⟩ := engineStep_busy s.takeTurn hbusy
  obtain ⟨hidle, hdone, -⟩ := State.runLatched_control hrun
  refine ⟨_, (step_of_engine (State.nextTurn_of_busy hbusy hnext)).trans hengine, ?_⟩
  split
  · exact ⟨hidle, hdone⟩
  · exact ⟨hidle, hdone⟩

/-- No command writes the host's registers or the model's own fields. -/
theorem exec_frame {i : Instr} {s t : State} (h : exec i s = .next t) :
    t.idValue = s.idValue ∧ t.src = s.src ∧ t.dst = s.dst ∧ t.len = s.len ∧ t.host = s.host ∧ t.turns = s.turns := by
  rcases exec_cases i s with ⟨e, d, -, -, hx⟩ | ⟨m, d, r, k, v, hx, -⟩
  all_goals
    obtain rfl := Host.Outcome.next.inj (hx.symm.trans h)
    exact ⟨rfl, rfl, rfl, rfl, rfl, rfl⟩

theorem exec_result_of_not_writesResult {i : Instr} {s t : State} (hi : writesResult i = false)
    (h : exec i s = .next t) : t.result = s.result := by
  rcases exec_cases i s with ⟨e, d, -, -, hx⟩ | ⟨m, d, r, k, v, hx, -, hresult, -⟩
  · obtain rfl := Host.Outcome.next.inj (hx.symm.trans h)
    rfl
  · obtain rfl := Host.Outcome.next.inj (hx.symm.trans h)
    exact hresult hi

/-- Only EXPAND and KSCLR write the schedule (R189). -/
theorem writesSchedule_eq_false {i : Instr} (hexpand : i ≠ .expand) (hksclr : i ≠ .ksclr) :
    writesSchedule i = false := by
  cases i with
  | expand => exact absurd rfl hexpand
  | ksclr => exact absurd rfl hksclr
  | nop | encrypt | decrypt | pad | unpad => rfl

/-- Settles O27: the control state, the host's registers, and the results of the commands that have none. -/
theorem commandFrame : Obligations.CommandFrame := by
  intro i s t h
  obtain ⟨hbusy, hdone, hie, hovr, hcmd, hcur⟩ := exec_control h
  obtain ⟨hsize, hhaz⟩ := exec_bufSize_hazard h
  obtain ⟨hid, hsrc, hdst, hlen, hhost, hturns⟩ := exec_frame h
  refine ⟨hid, hsize, hie, hovr, hcmd, hsrc, hdst, hlen, hcur, hhaz, hhost, hturns, hbusy, hdone, ?_, ?_⟩
  · intro hexpand hksclr
    exact exec_schedule_of_not_writesSchedule (writesSchedule_eq_false hexpand hksclr) h
  · rintro (rfl | rfl)
    all_goals exact exec_result_of_not_writesResult rfl h

end Sys2Proof.Machine
end

section
/-! Errors: a failing command keeps the state it found (R333, R336), and every step keeps ERR among the codes the rules
produce (R331, R332). -/

namespace Sys2Proof.Machine

/-- Settles O26: a command that fails is the completion of the state before it, and one that succeeds leaves code zero. -/
theorem failedCommandChangesNothing : Obligations.FailedCommandChangesNothing := by
  intro i s t h hfail
  rcases exec_cases i s with ⟨e, d, -, -, hx⟩ | ⟨m, d, r, k, v, hx, -⟩
  · obtain rfl := Host.Outcome.next.inj (hx.symm.trans h)
    rfl
  · obtain rfl := Host.Outcome.next.inj (hx.symm.trans h)
    exact absurd rfl hfail

/-! What leaves ERR alone, and what writes it. -/

/-- A command, the illegal one included, completes with a code that is not reserved (R302, R332). -/
theorem State.runLatched_err_lt {s t : State} (h : s.runLatched = .next t) : t.err.toNat < 8 := by
  rcases State.runLatched_cases h with ⟨i, -, hx⟩ | rfl
  · rcases exec_cases i s with ⟨e, d, hcode, -, hexec⟩ | ⟨m, d, r, k, v, hexec, -⟩
    · obtain rfl := Host.Outcome.next.inj (hexec.symm.trans hx)
      exact hcode
    · obtain rfl := Host.Outcome.next.inj (hexec.symm.trans hx)
      exact (by decide : ErrCode.none.code.toNat < 8)
  · exact (by decide : ErrCode.illegalCommand.code.toNat < 8)

/-- A register write clears ERR, as the soft reset does, or keeps it (R36, R371). -/
theorem State.writeReg_err (s : State) (r : Reg) (v : Word) :
    (s.writeReg r v).err = 0 ∨ (s.writeReg r v).err = s.err := by
  rcases writeReg_cases s r v with ⟨-, -, hw⟩ | ⟨-, -, hw⟩ | ⟨-, hw⟩ | ⟨-, -, hw⟩ | ⟨-, -, hw⟩ | ⟨x, y, z, hw⟩
  · left; simp [hw]
  all_goals right; simp [hw]

@[simp] theorem State.writeBuffer_err (s : State) (a : Nat) (bs : List Byte) : (s.writeBuffer a bs).err = s.err := by
  rcases writeBuffer_cases s a bs with ⟨-, hw⟩ | ⟨-, -, hw⟩ | ⟨-, -, hw⟩
  all_goals simp [hw]

theorem State.perform_err (s : State) (t : Txn) : (s.perform t).err = 0 ∨ (s.perform t).err = s.err := by
  rcases perform_cases s t with ⟨-, d, hp⟩ | ⟨-, -, hp⟩ | ⟨-, -, hp⟩
  · right; simp [hp]
  · rw [hp]; exact s.writeReg_err _ _
  · right; rw [hp]; exact s.writeBuffer_err _ _

/-! The error invariant: it asks nothing once HAZARD is set, and holds of code zero and of every completion. -/

theorem State.ErrorInv.congr {s t : State} (h : s.ErrorInv) (herr : t.err = s.err)
    (hhaz : s.hazard = true → t.hazard = true) : t.ErrorInv := by
  intro hsafe
  rw [herr]
  exact h (Bool.eq_false_iff.mpr fun hset => by simp [hhaz hset] at hsafe)

theorem State.ErrorInv.of_zero {s : State} (herr : s.err = 0) : s.ErrorInv := fun _ => by simp [herr]

theorem State.ErrorInv.of_hazard {s : State} (hset : s.hazard = true) : s.ErrorInv := fun hsafe => by simp [hset] at hsafe

/-- The engine's move. With HAZARD set ERR is open, and the invariant asks nothing of it (R380). -/
theorem State.ErrorInv.runLatched {s t : State} (w : Word) (hrun : s.runLatched = .next t) :
    (if s.hazard then t.taint w else t).ErrorInv := by
  cases hhaz : s.hazard with
  | true => exact .of_hazard ((State.runLatched_hazard hrun).trans hhaz)
  | false => exact fun _ => State.runLatched_err_lt hrun

theorem State.ErrorInv.perform {s : State} (h : s.ErrorInv) (t : Txn) : (s.perform t).ErrorInv := by
  rcases s.perform_err t with hzero | hkeep
  · exact .of_zero hzero
  · exact h.congr hkeep fun hset => by rw [State.perform_hazard, hset, Bool.true_or]

/-- Settles O58, by the moves a step can be: idle moves and host statements, the engine's completion, and the resets. -/
theorem errorInvariantKept : Obligations.ErrorInvariantKept := by
  intro s s' h hstep
  have hq : s.takeTurn.ErrorInv := h
  rcases step_cases s s' hstep with ⟨-, -, rfl⟩ | ⟨-, -, t, hrun, rfl⟩ | ⟨-, -, rfl⟩ |
    ⟨-, st, t, -, -, -, rfl⟩ | ⟨-, rfl⟩ | ⟨-, rfl⟩
  · exact hq
  · exact .runLatched (s := s.takeTurn) s.cur.word hrun
  · exact hq
  · exact (hq.perform t).congr rfl id
  · exact .of_zero rfl
  · exact .of_zero rfl

end Sys2Proof.Machine
end

section
/-! Reads of what is not defined: BUF while the engine is busy, and the round-key window while an EXPAND or KSCLR
executes (R381). Every byte read is the next free value. -/

namespace Sys2Proof.Machine

/-- Reading a memory that holds no byte draws, wherever the read starts. -/
theorem Memory.readBytes_nil (a n d : Nat) : Memory.readBytes [] a n d = drawBytes n d := by
  induction n generalizing a d with
  | zero => rfl
  | succ n ih =>
    have hopen (x : Nat) := Memory.readBytes_succ_of_none (Memory.read_nil x) n d
    rw [hopen a, drawBytes, hopen 0, ih, ih]

theorem State.readBuffer_of_busy {s : State} (hbusy : s.busy = true) (a n : Nat) :
    s.readBuffer a n = drawBytes n s.draws := by
  simp [State.readBuffer, State.hostView, hbusy, Memory.readBytes_nil]

/-- Each byte of an open word is a free value of its own. -/
theorem extractLsb'_openWord (d : Nat) {k : Nat} (hk : k < 4) :
    (openWord d).extractLsb' (8 * k) 8 = Config.draw (d + k) :=
  extractLsb'_leWordOf hk (drawBytes_getElem? 4 d k hk)

theorem scheduleCommand_of_decode {w : Word} {i : Instr} (h : decode w = .ok i) :
    scheduleCommand w = writesSchedule i := by
  simp [scheduleCommand, h]

/-- The window is open while the word of an EXPAND or a KSCLR executes. -/
theorem State.windowOpen_of_word {s : State} (hbusy : s.busy = true)
    (hword : s.cur.word = 0x00000001 ∨ s.cur.word = 0x00000006) : s.windowOpen = true := by
  rw [State.windowOpen, hbusy, Bool.true_and]
  rcases hword with hw | hw
  · rw [hw]; exact scheduleCommand_of_decode (decode_encode .expand)
  · rw [hw]; exact scheduleCommand_of_decode (decode_encode .ksclr)

section OpenWindow

variable {s : State} (hopen : s.windowOpen = true) (k : Nat)
include hopen

theorem State.readReg_rkw_of_windowOpen : s.readReg (.rkw k) = openWord s.draws := by
  simp [State.readReg, hopen]

theorem State.regDraws_rkw_of_windowOpen : s.regDraws (.rkw k) = 4 := by
  simp [State.regDraws, hopen]

end OpenWindow

/-- Settles O44: the host sees no byte of BUF while the engine is busy, and the window is open during EXPAND and KSCLR. -/
theorem readsWhileBusyAreOpen : Obligations.ReadsWhileBusyAreOpen := by
  intro s a hbusy
  have hread (n : Nat) : s.readBuffer a.toNat n = drawBytes n s.draws := State.readBuffer_of_busy hbusy _ n
  refine ⟨⟨?_, ?_⟩, ⟨fun k hk => ?_, ?_⟩, fun o hword _ hlow hhigh => ?_⟩
  · rw [State.readValue_bufRead8, hread]
    exact leWordOf_single _
  · rw [State.afterRead_bufRead8, hread]
    rfl
  · rw [State.readValue_bufRead32, hread]
    exact extractLsb'_openWord s.draws hk
  · rw [State.afterRead_bufRead32, hread]
    rfl
  · have hopen := State.windowOpen_of_word hbusy hword
    rw [State.readValue_regRead, State.afterRead_regRead, Reg.ofOffset_of_window ⟨hlow, hhigh⟩,
      State.readReg_rkw_of_windowOpen hopen, State.regDraws_rkw_of_windowOpen hopen]
    exact ⟨fun k hk => extractLsb'_openWord s.draws hk, rfl⟩

end Sys2Proof.Machine
end

section
/-! The engine's move after a hazard: the command still completes, and what R380 leaves open of it is free. -/

namespace Sys2Proof.Machine

/-- The byte at a place of the block that a byte string gives (R82). -/
theorem Block.byte_ofBytes {l : List Byte} {k : Nat} {b : Byte} (hlen : l.length = 16) (hk : k < 16)
    (h : l[k]? = some b) : (Block.ofBytes l).byte k = b := by
  have hget := Block.toBytes_getElem? (Block.ofBytes l) hk
  rw [Block.toBytes_ofBytes l hlen, h] at hget
  exact (Option.some.inj hget).symm

theorem byte_openBlock (d : Nat) {k : Nat} (hk : k < 16) : (openBlock d).byte k = Config.draw (d + k) :=
  Block.byte_ofBytes (length_drawBytes 16 d) hk (drawBytes_getElem? 16 d k hk)

theorem openKeys_getElem (d : Nat) {j : Nat} (hj : j < 11) : (openKeys d)[j] = openBlock (d + 16 * j) := by
  simp [openKeys]

/-- With HAZARD set a decoded command's outcome is opened (R380, R303). -/
theorem step_of_hazard {s t : State} {i : Instr} (hturn : s.nextTurn = .engine) (hbusy : s.busy = true)
    (hhaz : s.hazard = true) (hword : decode s.cur.word = .ok i) (hexec : exec i s.takeTurn = .next t) :
    step s = .next (t.taint s.cur.word) := by
  have hrun : s.takeTurn.runLatched = .next t := (State.runLatched_of_decode (s := s.takeTurn) hword).trans hexec
  rw [step_of_engine hturn]
  simp [engineStep, hbusy, hhaz, hrun, State.afterHazard]

/-- What a hazard opens of the schedule: all of it or nothing, by the command (R380). -/
theorem State.taint_schedule_of_writesSchedule {w : Word} {i : Instr} (t : State) (hword : decode w = .ok i)
    (hi : writesSchedule i = true) :
    (t.taint w).rk = openKeys (t.draws + 6) ∧ (t.taint w).ksv = (Config.draw (t.draws + 5)).getLsbD 0 := by
  simp [State.taint, scheduleCommand_of_decode hword, hi, openByte]

theorem State.taint_schedule_of_not_writesSchedule {w : Word} {i : Instr} (t : State) (hword : decode w = .ok i)
    (hi : writesSchedule i = false) : (t.taint w).rk = t.rk ∧ (t.taint w).ksv = t.ksv := by
  simp [State.taint, scheduleCommand_of_decode hword, hi]

/-- Settles O46: the step answers the command's outcome with a hazard's openings, each of them free. -/
theorem hazardLeavesResultOpen : Obligations.HazardLeavesResultOpen := by
  intro s t i hturn hbusy hhaz hword hexec
  refine ⟨openWord (t.draws + 1), (t.taint s.cur.word).rk, (t.taint s.cur.word).ksv,
    step_of_hazard hturn hbusy hhaz hword hexec, fun n hn => extractLsb'_openWord _ hn, fun hschedule => ?_,
    fun hexpand hksclr => t.taint_schedule_of_not_writesSchedule hword (writesSchedule_eq_false hexpand hksclr)⟩
  have hi : writesSchedule i = true := by rcases hschedule with rfl | rfl <;> rfl
  obtain ⟨hrk, hksv⟩ := t.taint_schedule_of_writesSchedule hword hi
  refine ⟨hksv, fun j hj n hn => ?_⟩
  simp only [hrk]
  rw [openKeys_getElem _ hj, byte_openBlock _ hn]

end Sys2Proof.Machine
end

section
/-! The resets: which bytes an abandoned command leaves open (R373), what every register holds afterwards (R371), and
that each of the three is one step (R370 to R372). -/

namespace Sys2Proof.Machine

/-! The region an abandoned command could have written, by `CUR.opc`. -/

theorem State.abandonedRegion_of_idle {s : State} (hidle : s.busy = false) : s.abandonedRegion = (0, 0) := by
  simp [State.abandonedRegion, hidle]

section Busy

variable {s : State} (hbusy : s.busy = true)
include hbusy

theorem State.abandonedRegion_of_blockCommand (hopc : s.cur.opc = 0x02 ∨ s.cur.opc = 0x03) :
    s.abandonedRegion =
      (s.cur.dst.toNat, min (s.cur.dst.toNat + s.cur.len.toNat) s.bufSize - s.cur.dst.toNat) := by
  rcases hopc with h | h
  · simp [State.abandonedRegion, hbusy, h]
  · simp [State.abandonedRegion, hbusy, h]

theorem State.abandonedRegion_of_pad (hopc : s.cur.opc = 0x04) :
    s.abandonedRegion =
      (s.cur.src.toNat + s.cur.len.toNat,
        min (s.cur.src.toNat + s.cur.len.toNat + padLength s.cur.len.toNat) s.bufSize
          - (s.cur.src.toNat + s.cur.len.toNat)) := by
  simp [State.abandonedRegion, hbusy, hopc]

theorem State.abandonedRegion_of_other (h2 : s.cur.opc ≠ 0x02) (h3 : s.cur.opc ≠ 0x03) (h4 : s.cur.opc ≠ 0x04) :
    s.abandonedRegion = (0, 0) := by
  rw [State.abandonedRegion, if_pos hbusy]
  split
  case h_1 hopc => exact absurd (BitVec.eq_of_toNat_eq hopc) h2
  case h_2 hopc => exact absurd (BitVec.eq_of_toNat_eq hopc) h3
  case h_3 hopc => exact absurd (BitVec.eq_of_toNat_eq hopc) h4
  case h_4 => rfl

end Busy

/-! What a reset leaves of BUF. -/

theorem State.abandon_mem_of_empty {s : State} (h : s.abandonedRegion = (0, 0)) : s.abandon.mem = s.mem := by
  simp only [State.abandon, h]
  exact ite_self _

/-- A reset opens the bytes from `lo` up to `hi`, each with a free value of its own, and keeps every other one. -/
theorem State.read_warmReset {s : State} {lo hi : Nat} (hsafe : s.hazard = false)
    (hregion : s.abandonedRegion = (lo, hi - lo)) (x : Nat) :
    (lo ≤ x ∧ x < hi → s.warmReset.mem.read x = some (Config.draw (s.draws + (x - lo)))) ∧
    (¬ (lo ≤ x ∧ x < hi) → s.warmReset.mem.read x = s.mem.read x) := by
  rw [State.warmReset_mem, State.abandon_read s hsafe, hregion]
  refine ⟨fun hin => ?_, fun hout => ?_⟩
  · rw [if_pos (by omega), drawBytes_getElem? _ _ _ (by omega)]
  · rw [if_neg (by omega)]

/-- Settles O49, by the region of the latched code. -/
theorem abandonedCommandBytes : Obligations.AbandonedCommandBytes := by
  intro s x hbusy hsafe
  refine ⟨⟨rfl, rfl, rfl⟩, ?_, ?_, fun h2 h3 h4 => ?_⟩
  · rintro lo hi hopc rfl rfl
    exact State.read_warmReset hsafe (State.abandonedRegion_of_blockCommand hbusy hopc) x
  · rintro lo hi hopc rfl rfl
    exact State.read_warmReset hsafe (State.abandonedRegion_of_pad hbusy hopc) x
  · rw [State.warmReset_mem, State.abandon_mem_of_empty (State.abandonedRegion_of_other hbusy h2 h3 h4)]

/-- Settles O48: an idle engine abandons no command, so BUF stays. -/
theorem warmResetClearsRegisters : Obligations.WarmResetClearsRegisters := fun s =>
  ⟨s.abandon.mem, s.abandon.draws, rfl, fun hidle =>
    State.abandon_mem_of_empty (State.abandonedRegion_of_idle hidle)⟩

/-! Each reset as a step. -/

/-- A reset does not read the queue of moves. -/
theorem State.warmReset_takeTurn (s : State) :
    s.takeTurn.warmReset = { s.warmReset with turns := s.turns.tail } := rfl

theorem State.writeCtrl_of_softReset (s : State) {v : Word} (hv : v.getLsbD 1 = true) :
    s.writeCtrl v = s.warmReset := by
  simp [State.writeCtrl, hv]

/-- Settles O50: the soft reset is the host's statement, performed, and the other two are moves of the queue. -/
theorem resetSteps : Obligations.ResetSteps := by
  intro s
  refine ⟨fun v hturn hst hv => ?_, fun hturn => ?_, fun hturn => ⟨s.abandon.draws, ?_⟩⟩
  · have haccepted : (regWrite 0x004 v).refusal s.bufSize = none :=
      (Txn.refusal_eq_none_of_reg rfl).mpr ⟨rfl, by simp [regWrite], by simp [regWrite]⟩
    rw [step_performed hturn hst rfl haccepted, State.perform_goto_of_write _ rfl, State.afterWrite_ctrl,
      State.writeCtrl_of_softReset _ hv, State.warmReset_takeTurn]
    rfl
  · simp only [step, hturn, State.warmReset_takeTurn]
  · simp only [step, hturn, State.powerOnReset, State.warmReset_takeTurn]
    rfl

end Sys2Proof.Machine
end
